-- ==== Sys2Proof/Word.lean ====
section
/-! DEFINITION. The word of the machine and its plainest arithmetic (spec/00_scope.md R3, R5, R6). -/

namespace Sys2Proof

/-- A 32-bit word: registers, memory cells, instructions, immediates and port values (R3).
Bit 31 is the most significant bit (R5). `BitVec.toNat` is the spec's `uint`, `BitVec.toInt` its `sint` (R6). -/
abbrev Word := BitVec 32

/-- `word(n)` of R6: the word congruent to the integer `n` modulo 2^32. -/
abbrev word (n : Int) : Word := BitVec.ofInt 32 n

/-- The boolean result of a comparison or conversion: the word 1 or the word 0 (R196). -/
def boolWord (b : Bool) : Word := if b then 1 else 0

/-- A general-purpose register index, 0 to 15 (spec/10_state.md R20). -/
abbrev Reg := Fin 16

end Sys2Proof
end

