-- ==== Sys2Proof/Config.lean ====
section
/-! DEFINITION. What an implementation or the environment fixes: the fixed parameters of spec/00_scope.md R3,
and the open parameters of R4 as constants WITHOUT A BODY, so that no proof can see a value the spec does not state. -/

namespace Sys2Proof

/-- The three control signals the console sends to the CPU (spec/60_exceptions.md R268). -/
inductive Signal where
  | reset
  | frame
  | cycle
deriving DecidableEq, Repr

/-- A request the CPU puts on one of its two buses (spec/20_memory.md R53, R60). -/
inductive Request where
  | memRead (addr : Word)
  | memWrite (addr value : Word)
  | portRead (port : Nat)
  | portWrite (port : Nat) (value : Word)
deriving DecidableEq, Repr

/-- One thing that can be observed of a run (spec/70_reset_and_hazards.md R292): a control signal taken,
or a bus request with its answer. `some w` is success (with the word read; the word has no meaning for a write),
`none` is failure. -/
inductive Event where
  | signal (g : Signal)
  | request (r : Request) (answer : Option Word)
deriving DecidableEq, Repr

/-- The float operations whose NaN results carry bits the spec does not state (spec/47_float_arithmetic.md R215). -/
inductive FloatOp where
  | add | sub | mul | div | fmod | sin | log
deriving DecidableEq, Repr

namespace Config

/-- Number of RAM words: RAM is 0x00000000 to 0x003FFFFF (R3, R56). -/
def ramWords : Nat := 0x400000

/-- The last RAM address, the initial SP and BP (R3, R36). -/
def stackTop : Word := 0x003FFFFF

/-- `pc` after reset, the BIOS start-up address (R3, R36). -/
def resetEntry : Word := 0x10000004

/-- `pc` after a hardware error, the BIOS error handler address (R3, R262). -/
def errorEntry : Word := 0x10000000

/-- FREE VALUE (spec/20_memory.md R53, R60; D15, D16): what the environment answers to a request that neither RAM
nor `State.answers` settles. It may depend on everything that happened before. Entries 21, 22. -/
opaque environment : List Event → Request → Option Word

/-- FREE VALUE `RAM_INIT` (spec/10_state.md R37, D22): the content of a RAM word that nothing has written. Entry 20. -/
opaque ramInit : Nat → Word

/-- FREE VALUE `IDIV_OVERFLOW`, quotient (spec/46_integer_arithmetic.md R204, D9): `IDIV` of its two operands
where the true quotient does not fit. Entry 13. -/
opaque idivOverflow : Word → Word → Word

/-- FREE VALUE `IDIV_OVERFLOW`, remainder (spec/46_integer_arithmetic.md R205, D9). Entry 13. -/
opaque imodOverflow : Word → Word → Word

/-- FREE VALUE `CFI_OUT_OF_RANGE` (spec/44_conversions.md R181, D21): `CFI` of a float that no signed 32-bit
integer holds after truncation. Entry 12. -/
opaque cfiOutOfRange : Word → Word

/-- FREE VALUE (spec/47_float_arithmetic.md R215, D3): the bits of a NaN result. Entry 5. -/
opaque nanBits : FloatOp → Word → Word → Word

/-- FREE VALUE (spec/48_float_extended.md R230, R234, D24): the sine of a finite float. Entry 11. -/
opaque sin : Word → Word

/-- FREE VALUE (R230, R235, D24): the arc cosine of a float in [-1, 1]. Entry 11. -/
opaque acos : Word → Word

/-- FREE VALUE (R230, R236, D24): the angle of the vector (second operand, first operand). Entry 11. -/
opaque atan2 : Word → Word → Word

/-- FREE VALUE (R230, R237, D24): the natural logarithm of a positive finite float. Entry 11. -/
opaque log : Word → Word

/-- FREE VALUE (R230, R238, D24): the first operand to the power of the second. Entry 11. -/
opaque pow : Word → Word → Word

end Config

end Sys2Proof
end

