-- ==== Sys2Proof/Syntax.lean ====
section
/-! DEFINITION. The instruction set as syntax: the 64 opcodes (spec/30_encoding.md R90) and one constructor of `Instr`
for each of the 107 rows of spec/opcode_table.json (R91, R92, R93). -/

namespace Sys2Proof

/-- The 64 opcodes in the order of their numbers (R90). -/
inductive Opcode where
  | hlt | wait | jmp | call | ret | jt | jf | ieq | ine | igt | ige | ilt | ile | feq | fne | fgt
  | fge | flt | fle | mov | lea | push | pop | inp | out | movs | sets | cmps | cif | cfi | cib | cfb
  | bitNot | bitAnd | bitOr | bitXor | bnot | shl | iadd | isub | imul | idiv | imod | isgn | imin | imax | iabs | fadd
  | fsub | fmul | fdiv | fmod | fsgn | fmin | fmax | fabs | flr | ceil | round | sin | acos | atan2 | log | pow
deriving DecidableEq, Repr

/-- An instruction with its operands. `r1`, `r2` are the register fields (R81), `imm` the immediate word (R84),
`port` the port number. A constructor's docstring gives the row's syntax and the rule of its meaning. -/
inductive Instr where
  -- CPU control and jumps
  /-- `HLT` (R110) -/
  | hlt
  /-- `WAIT` (R111) -/
  | wait
  /-- `JMP imm` (R112) -/
  | jmpImm (imm : Word)
  /-- `JMP r1` (R112) -/
  | jmpReg (r1 : Reg)
  /-- `CALL imm` (R113) -/
  | callImm (imm : Word)
  /-- `CALL r1` (R113) -/
  | callReg (r1 : Reg)
  /-- `RET` (R114) -/
  | ret
  /-- `JT r1, imm` (R115) -/
  | jtImm (r1 : Reg) (imm : Word)
  /-- `JT r1, r2` (R115) -/
  | jtReg (r1 r2 : Reg)
  /-- `JF r1, imm` (R116) -/
  | jfImm (r1 : Reg) (imm : Word)
  /-- `JF r1, r2` (R116) -/
  | jfReg (r1 r2 : Reg)
  -- Integer comparisons
  /-- `IEQ r1, imm` (R131) -/
  | ieqImm (r1 : Reg) (imm : Word)
  /-- `IEQ r1, r2` (R131) -/
  | ieqReg (r1 r2 : Reg)
  /-- `INE r1, imm` (R132) -/
  | ineImm (r1 : Reg) (imm : Word)
  /-- `INE r1, r2` (R132) -/
  | ineReg (r1 r2 : Reg)
  /-- `IGT r1, imm` (R133) -/
  | igtImm (r1 : Reg) (imm : Word)
  /-- `IGT r1, r2` (R133) -/
  | igtReg (r1 r2 : Reg)
  /-- `IGE r1, imm` (R134) -/
  | igeImm (r1 : Reg) (imm : Word)
  /-- `IGE r1, r2` (R134) -/
  | igeReg (r1 r2 : Reg)
  /-- `ILT r1, imm` (R135) -/
  | iltImm (r1 : Reg) (imm : Word)
  /-- `ILT r1, r2` (R135) -/
  | iltReg (r1 r2 : Reg)
  /-- `ILE r1, imm` (R136) -/
  | ileImm (r1 : Reg) (imm : Word)
  /-- `ILE r1, r2` (R136) -/
  | ileReg (r1 r2 : Reg)
  -- Float comparisons
  /-- `FEQ r1, imm` (R138) -/
  | feqImm (r1 : Reg) (imm : Word)
  /-- `FEQ r1, r2` (R138) -/
  | feqReg (r1 r2 : Reg)
  /-- `FNE r1, imm` (R139) -/
  | fneImm (r1 : Reg) (imm : Word)
  /-- `FNE r1, r2` (R139) -/
  | fneReg (r1 r2 : Reg)
  /-- `FGT r1, imm` (R140) -/
  | fgtImm (r1 : Reg) (imm : Word)
  /-- `FGT r1, r2` (R140) -/
  | fgtReg (r1 r2 : Reg)
  /-- `FGE r1, imm` (R141) -/
  | fgeImm (r1 : Reg) (imm : Word)
  /-- `FGE r1, r2` (R141) -/
  | fgeReg (r1 r2 : Reg)
  /-- `FLT r1, imm` (R142) -/
  | fltImm (r1 : Reg) (imm : Word)
  /-- `FLT r1, r2` (R142) -/
  | fltReg (r1 r2 : Reg)
  /-- `FLE r1, imm` (R143) -/
  | fleImm (r1 : Reg) (imm : Word)
  /-- `FLE r1, r2` (R143) -/
  | fleReg (r1 r2 : Reg)
  -- Data movement
  /-- `MOV r1, imm` (R150) -/
  | movRegImm (r1 : Reg) (imm : Word)
  /-- `MOV r1, r2` (R150) -/
  | movRegReg (r1 r2 : Reg)
  /-- `MOV r1, [imm]` (R150) -/
  | movRegMemImm (r1 : Reg) (imm : Word)
  /-- `MOV r1, [r2]` (R150) -/
  | movRegMemReg (r1 r2 : Reg)
  /-- `MOV r1, [r2 + imm]` (R150) -/
  | movRegMemRegImm (r1 r2 : Reg) (imm : Word)
  /-- `MOV [imm], r2` (R150) -/
  | movMemImmReg (r2 : Reg) (imm : Word)
  /-- `MOV [r1], r2` (R150) -/
  | movMemRegReg (r1 r2 : Reg)
  /-- `MOV [r1 + imm], r2` (R150) -/
  | movMemRegImmReg (r1 r2 : Reg) (imm : Word)
  /-- `LEA r1, [r2]` (R151) -/
  | leaReg (r1 r2 : Reg)
  /-- `LEA r1, [r2 + imm]` (R151) -/
  | leaRegImm (r1 r2 : Reg) (imm : Word)
  /-- `PUSH r1` (R152) -/
  | push (r1 : Reg)
  /-- `POP r1` (R153) -/
  | pop (r1 : Reg)
  /-- `IN r1, port` (R154) -/
  | inPort (r1 : Reg) (port : Nat)
  /-- `OUT port, imm` (R155) -/
  | outImm (port : Nat) (imm : Word)
  /-- `OUT port, r1` (R155) -/
  | outReg (port : Nat) (r1 : Reg)
  -- String instructions
  /-- `MOVS` (R171) -/
  | movs
  /-- `SETS` (R172) -/
  | sets
  /-- `CMPS r1` (R173) -/
  | cmps (r1 : Reg)
  -- Data conversion
  /-- `CIF r1` (R180) -/
  | cif (r1 : Reg)
  /-- `CFI r1` (R181) -/
  | cfi (r1 : Reg)
  /-- `CIB r1` (R182) -/
  | cib (r1 : Reg)
  /-- `CFB r1` (R183) -/
  | cfb (r1 : Reg)
  -- Binary operations
  /-- `NOT r1` (R190) -/
  | notReg (r1 : Reg)
  /-- `AND r1, imm` (R191) -/
  | andImm (r1 : Reg) (imm : Word)
  /-- `AND r1, r2` (R191) -/
  | andReg (r1 r2 : Reg)
  /-- `OR r1, imm` (R192) -/
  | orImm (r1 : Reg) (imm : Word)
  /-- `OR r1, r2` (R192) -/
  | orReg (r1 r2 : Reg)
  /-- `XOR r1, imm` (R193) -/
  | xorImm (r1 : Reg) (imm : Word)
  /-- `XOR r1, r2` (R193) -/
  | xorReg (r1 r2 : Reg)
  /-- `BNOT r1` (R194) -/
  | bnot (r1 : Reg)
  /-- `SHL r1, imm` (R195) -/
  | shlImm (r1 : Reg) (imm : Word)
  /-- `SHL r1, r2` (R195) -/
  | shlReg (r1 r2 : Reg)
  -- Integer arithmetic
  /-- `IADD r1, imm` (R201) -/
  | iaddImm (r1 : Reg) (imm : Word)
  /-- `IADD r1, r2` (R201) -/
  | iaddReg (r1 r2 : Reg)
  /-- `ISUB r1, imm` (R202) -/
  | isubImm (r1 : Reg) (imm : Word)
  /-- `ISUB r1, r2` (R202) -/
  | isubReg (r1 r2 : Reg)
  /-- `IMUL r1, imm` (R203) -/
  | imulImm (r1 : Reg) (imm : Word)
  /-- `IMUL r1, r2` (R203) -/
  | imulReg (r1 r2 : Reg)
  /-- `IDIV r1, imm` (R204) -/
  | idivImm (r1 : Reg) (imm : Word)
  /-- `IDIV r1, r2` (R204) -/
  | idivReg (r1 r2 : Reg)
  /-- `IMOD r1, imm` (R205) -/
  | imodImm (r1 : Reg) (imm : Word)
  /-- `IMOD r1, r2` (R205) -/
  | imodReg (r1 r2 : Reg)
  /-- `ISGN r1` (R206) -/
  | isgn (r1 : Reg)
  /-- `IMIN r1, imm` (R207) -/
  | iminImm (r1 : Reg) (imm : Word)
  /-- `IMIN r1, r2` (R207) -/
  | iminReg (r1 r2 : Reg)
  /-- `IMAX r1, imm` (R208) -/
  | imaxImm (r1 : Reg) (imm : Word)
  /-- `IMAX r1, r2` (R208) -/
  | imaxReg (r1 r2 : Reg)
  /-- `IABS r1` (R209) -/
  | iabs (r1 : Reg)
  -- Float arithmetic
  /-- `FADD r1, imm` (R216) -/
  | faddImm (r1 : Reg) (imm : Word)
  /-- `FADD r1, r2` (R216) -/
  | faddReg (r1 r2 : Reg)
  /-- `FSUB r1, imm` (R217) -/
  | fsubImm (r1 : Reg) (imm : Word)
  /-- `FSUB r1, r2` (R217) -/
  | fsubReg (r1 r2 : Reg)
  /-- `FMUL r1, imm` (R218) -/
  | fmulImm (r1 : Reg) (imm : Word)
  /-- `FMUL r1, r2` (R218) -/
  | fmulReg (r1 r2 : Reg)
  /-- `FDIV r1, imm` (R219) -/
  | fdivImm (r1 : Reg) (imm : Word)
  /-- `FDIV r1, r2` (R219) -/
  | fdivReg (r1 r2 : Reg)
  /-- `FMOD r1, imm` (R220) -/
  | fmodImm (r1 : Reg) (imm : Word)
  /-- `FMOD r1, r2` (R220) -/
  | fmodReg (r1 r2 : Reg)
  /-- `FSGN r1` (R221) -/
  | fsgn (r1 : Reg)
  /-- `FMIN r1, imm` (R222) -/
  | fminImm (r1 : Reg) (imm : Word)
  /-- `FMIN r1, r2` (R222) -/
  | fminReg (r1 r2 : Reg)
  /-- `FMAX r1, imm` (R223) -/
  | fmaxImm (r1 : Reg) (imm : Word)
  /-- `FMAX r1, r2` (R223) -/
  | fmaxReg (r1 r2 : Reg)
  /-- `FABS r1` (R224) -/
  | fabs (r1 : Reg)
  -- Extended float operations
  /-- `FLR r1` (R231) -/
  | flr (r1 : Reg)
  /-- `CEIL r1` (R232) -/
  | ceil (r1 : Reg)
  /-- `ROUND r1` (R233) -/
  | round (r1 : Reg)
  /-- `SIN r1` (R234) -/
  | sin (r1 : Reg)
  /-- `ACOS r1` (R235) -/
  | acos (r1 : Reg)
  /-- `ATAN2 r1, r2` (R236) -/
  | atan2 (r1 r2 : Reg)
  /-- `LOG r1` (R237) -/
  | log (r1 : Reg)
  /-- `POW r1, r2` (R238) -/
  | pow (r1 r2 : Reg)
deriving DecidableEq, Repr

end Sys2Proof
end

