-- ==== Sys2Proof/Machine/State.lean ====
section
/-! DEFINITION. The state of the machine as plain data (spec/10_state.md), how a step can stop, and the state after
reset (R36). -/

namespace Sys2Proof.Machine

/-- The memory words that are known, as (address, word) pairs in one canonical form: addresses strictly rising and
below 2^32 (`Memory.wf`). One address names one whole word and the machine has no bytes (spec/20_memory.md R50, R51),
so a cell holds a word where `Host.Cell` holds a byte (entry 23). An address that is not listed reads as
`State.peek` says: it never reads as a value an entry could be compared with (entries 20, 21). -/
abbrev Memory := List (Nat × Word)

/-- The complete state. `regs` to `mem` are the CPU's and its memory's (spec/10_state.md R10, R33, R34); `signals`,
`answers` and `history` are the model's own, the environment's side of the two buses and the control signals. -/
structure State where
  /-- R0 to R15 (R20). -/
  regs : Vector Word 16
  /-- The Instruction Pointer (R26). -/
  pc : Word
  /-- The Instruction Register `IR` (R27). -/
  ir : Word
  /-- The Immediate Value register `Imm` (R28). -/
  imm : Word
  /-- The Halt flag (R30). -/
  halt : Bool
  /-- The Wait flag (R31). -/
  wait : Bool
  /-- The memory words that are known: RAM words that were written (spec/20_memory.md R56), and words outside RAM
  that the environment supplies as data (R53). -/
  mem : Memory
  /-- Control signals still to be delivered, first to come first; after them only cycle signals come
  (spec/70_reset_and_hazards.md R290; entry 24). -/
  signals : List Signal
  /-- What the environment will answer to the next requests it is asked, first to come first; after them
  `Config.environment` answers (spec/20_memory.md R53, R60; entries 21, 22). -/
  answers : List (Option Word)
  /-- Every signal taken and every bus request with its answer, latest first (R292; entry 25). -/
  history : List Event
deriving DecidableEq, Repr

/-- The machine never stops with a fault: every failing bus request, stack bound and arithmetic error is taken as a
hardware error, which is a next state (spec/60_exceptions.md R250, R262). Nothing raises one; the type is empty. -/
inductive Fault where
deriving DecidableEq, Repr

/-- Why a step is refused. -/
inductive Refusal where
  /-- An instruction without a meaning in the model yet: raised by an arm of `exec`; safe. No arm raises it. -/
  | notModelled (mnemonic : String)
  /-- An ill-formed instruction word, raised by `step` after the fetch steps have run: `pc`, `ir` and `imm` are the
  three internal registers as those steps left them. The sources call its execution implementation-dependent and
  undefined (spec/30_encoding.md R95, D12; entry 26). Safe: the model claims nothing of such a run. -/
  | illFormed (pc ir imm : Word)
deriving DecidableEq, Repr

/-- The general registers after reset: all zero, then BP and SP at the last RAM address (R36). -/
def resetRegs : Vector Word 16 :=
  ((Vector.replicate 16 0).set 14 Config.stackTop).set 15 Config.stackTop

/-- The machine right after reset, which is also power-on (R36, R280). `ir` and `imm` are zero by the spec's decision
D13 (entry 19); memory has nothing listed (entry 20); the environment's fields are empty (entries 21, 24, 25). -/
def State.reset : State :=
  { regs := resetRegs, pc := Config.resetEntry, ir := 0, imm := 0, halt := false, wait := false,
    mem := [], signals := [], answers := [], history := [] }

end Sys2Proof.Machine
end

