-- ==== Sys2Proof/Machine/Ops.lean ====
section
/-! DEFINITION. The named operations over registers, memory, ports and the stack (spec/00_scope.md R7), taking a
hardware error (spec/60_exceptions.md R262), and the responses to the reset and frame signals (R269, R270).

An operation that can fail takes the rest of the pseudocode as its last argument: it goes on with it on success, and
on failure raises the hardware error, after which nothing of the rest happens (R7, R264). -/

namespace Sys2Proof.Machine

/-- What one instruction or one step answers. -/
abbrev Result := Host.Outcome State Fault Refusal

/-! ### Registers -/

/-- The Count, Source and Destination Registers, the Base and the Stack Pointer (spec/10_state.md R21). -/
abbrev CR : Reg := 11
abbrev SR : Reg := 12
abbrev DR : Reg := 13
abbrev BP : Reg := 14
abbrev SP : Reg := 15

/-- `x[r]` (R20). -/
def State.reg (s : State) (r : Reg) : Word := s.regs.get r

/-- `x[r] <- v` (R20). No register is hard-wired or read-only (R23). -/
def State.setReg (s : State) (r : Reg) (v : Word) : State := { s with regs := s.regs.set r v }

/-- `pc <- target` (R26). -/
def State.setPc (s : State) (target : Word) : State := { s with pc := target }

/-- One more event of the run (spec/70_reset_and_hazards.md R292). -/
def State.record (s : State) (e : Event) : State := { s with history := e :: s.history }

/-! ### Taking a hardware error -/

/-- The eleven causes (spec/60_exceptions.md R251 to R261). -/
inductive HardwareError where
  | invalidMemoryRead
  | invalidMemoryWrite
  | invalidPortRead
  | invalidPortWrite
  | stackOverflow
  | stackUnderflow
  | divisionError
  | arcCosineError
  | arcTangent2Error
  | logarithmError
  | powerError
deriving DecidableEq, Repr

/-- The error code (R251 to R261). -/
def HardwareError.code : HardwareError → Word
  | .invalidMemoryRead => 0
  | .invalidMemoryWrite => 1
  | .invalidPortRead => 2
  | .invalidPortWrite => 3
  | .stackOverflow => 4
  | .stackUnderflow => 5
  | .divisionError => 6
  | .arcCosineError => 7
  | .arcTangent2Error => 8
  | .logarithmError => 9
  | .powerError => 10

/-- `raise <Error>`: the hardware error response (R262). There is no return from it (R266), and an error raised in
the handler is taken the same way (R267). -/
def State.raise (s : State) (e : HardwareError) : State :=
  let s := s.setReg 0 e.code
  let s := s.setReg 1 s.pc
  let s := s.setReg 2 s.ir
  let s := s.setReg 3 s.imm
  let s := s.setReg BP Config.stackTop
  let s := s.setReg SP Config.stackTop
  s.setPc Config.errorEntry

/-- A raised error ends the instruction (R264) with the state after the response (R262). -/
def raise (e : HardwareError) (s : State) : Result := .next (s.raise e)

/-! ### Memory -/

/-- The word listed at an address. -/
def Memory.lookup : Memory → Nat → Option Word
  | [], _ => none
  | (b, w) :: m, a => if a = b then some w else Memory.lookup m a

/-- The memory with the word at an address replaced or added at its place. -/
def Memory.store : Memory → Nat → Word → Memory
  | [], a, v => [(a, v)]
  | (b, w) :: m, a, v =>
    if a < b then (a, v) :: (b, w) :: m
    else if a = b then (a, v) :: m
    else (b, w) :: Memory.store m a v

/-- Every address is at least `lo`, below 2^32, and above the one before it. -/
def Memory.risesFrom : Nat → Memory → Bool
  | _, [] => true
  | lo, (a, _) :: m => decide (lo ≤ a) && decide (a < 2 ^ 32) && Memory.risesFrom (a + 1) m

/-- The canonical form: addresses strictly rising and below 2^32. -/
def Memory.wf (m : Memory) : Bool := Memory.risesFrom 0 m

/-- Is the address a RAM address (spec/20_memory.md R56)? -/
def inRam (a : Word) : Bool := a.toNat < Config.ramWords

/-- The word at an address, where it is known without asking the environment: a listed word, or for a RAM word that
nothing has written the free value `RAM_INIT` (R56; spec/10_state.md R37). `none` leaves it to the environment. -/
def State.peek (s : State) (a : Word) : Option Word :=
  match s.mem.lookup a.toNat with
  | some w => some w
  | none => if inRam a then some (Config.ramInit a.toNat) else none

/-- The word `v` at address `a`, in memory only. -/
def State.poke (s : State) (a v : Word) : State := { s with mem := s.mem.store a.toNat v }

/-- The environment's answer to a request: the next one of `answers`, and where these are used up the free value
(R53, R60). -/
def State.answerTo (s : State) (q : Request) : Option Word :=
  match s.answers with
  | a :: _ => a
  | [] => Config.environment s.history q

/-- A request to the environment: its answer and the state after it. Each request is made and recorded once (R69). -/
def State.ask (s : State) (q : Request) : Option Word × State :=
  (s.answerTo q, { s with answers := s.answers.tail, history := .request q (s.answerTo q) :: s.history })

/-- A read request on the memory bus: the answer and the state after it (R53, R54, R56). -/
def State.busRead (s : State) (a : Word) : Option Word × State :=
  match s.peek a with
  | some w => (some w, s.record (.request (.memRead a) (some w)))
  | none => s.ask (.memRead a)

/-- A write request on the memory bus: whether it succeeded and the state after it (R53, R55, R56). RAM always takes
the word; outside RAM the environment decides, and on success a word listed there is the new word. A failed request
changes no word. -/
def State.busWrite (s : State) (a v : Word) : Bool × State :=
  if inRam a then (true, (s.poke a v).record (.request (.memWrite a v) (some v)))
  else
    match s.ask (.memWrite a v) with
    | (none, s') => (false, s')
    | (some _, s') => (true, if (s.mem.lookup a.toNat).isSome then s'.poke a v else s')

/-- `MemRead(a, 1)` (R54), then the rest with the word read. -/
def memRead (a : Word) (s : State) (rest : Word → State → Result) : Result :=
  match s.busRead a with
  | (some w, s') => rest w s'
  | (none, s') => raise .invalidMemoryRead s'

/-- `MemWrite(a, 1, v)` (R55), then the rest. -/
def memWrite (a v : Word) (s : State) (rest : State → Result) : Result :=
  match s.busWrite a v with
  | (true, s') => rest s'
  | (false, s') => raise .invalidMemoryWrite s'

/-! ### Ports -/

/-- `PortRead(p)` (R61), then the rest with the word read. -/
def portRead (p : Nat) (s : State) (rest : Word → State → Result) : Result :=
  match s.ask (.portRead p) with
  | (some w, s') => rest w s'
  | (none, s') => raise .invalidPortRead s'

/-- `PortWrite(p, v)` (R62), then the rest. -/
def portWrite (p : Nat) (v : Word) (s : State) (rest : State → Result) : Result :=
  match s.ask (.portWrite p v) with
  | (some _, s') => rest s'
  | (none, s') => raise .invalidPortWrite s'

/-! ### The stack -/

/-- `StackPush(v)` (R57): store at SP, decrement SP, and a negative SP is a stack overflow. -/
def stackPush (v : Word) (s : State) (rest : State → Result) : Result :=
  memWrite (s.reg SP) v s fun s =>
    let s := s.setReg SP (s.reg SP - 1)
    if (s.reg SP).toInt < 0 then raise .stackOverflow s else rest s

/-- `StackPop()` (R58): increment SP, an SP above 0x003FFFFF is a stack underflow, and read at SP (the order of
decision D7; entry 18). -/
def stackPop (s : State) (rest : Word → State → Result) : Result :=
  let s := s.setReg SP (s.reg SP + 1)
  if (s.reg SP).toInt > Config.stackTop.toInt then raise .stackUnderflow s
  else memRead (s.reg SP) s rest

/-! ### The reset and frame signals -/

/-- The response to the reset signal (R269): flags, all registers, the stack, then `pc`. Memory is not touched. -/
def State.resetSignal (s : State) : State :=
  let s := { s with halt := false, wait := false }
  let s := { s with regs := Vector.replicate 16 0, ir := 0, imm := 0 }
  let s := s.setReg BP Config.stackTop
  let s := s.setReg SP Config.stackTop
  s.setPc Config.resetEntry

/-- The response to the frame signal (R270): the Wait flag is cleared and nothing else changes. -/
def State.frameSignal (s : State) : State := { s with wait := false }

end Sys2Proof.Machine
end

