-- ==== Sys2Proof/Machine/Operands.lean ====
section
/-! DEFINITION. The operand forms (spec/30_encoding.md R92, R93): a word operand is the immediate or a register, a
memory operand is at the immediate, at a register, or at their sum. The shapes shared by the register instructions
read every source before they write (spec/42_data_movement.md, spec/46_integer_arithmetic.md R200). -/

namespace Sys2Proof.Machine

/-- The address of `[ reg + imm ]`: the sum modulo 2^32 (spec/42_data_movement.md R150, R151, D4; entry 16). -/
def State.sumAddress (s : State) (base : Reg) (offset : Word) : Word := s.reg base + offset

/-- `x[r1] <- f(x[r1])`. -/
def updateReg (f : Word → Word) (r1 : Reg) (s : State) : Result :=
  .next (s.setReg r1 (f (s.reg r1)))

/-- `x[r1] <- f(x[r1], b)` with the second operand `b` already read. -/
def updateWith (f : Word → Word → Word) (r1 : Reg) (b : Word) (s : State) : Result :=
  .next (s.setReg r1 (f (s.reg r1) b))

/-- `x[r1] <- 1` if the relation holds between `x[r1]` and `b`, else `x[r1] <- 0` (spec/41_comparisons.md R130). -/
def compareWith (rel : Word → Word → Bool) (r1 : Reg) (b : Word) (s : State) : Result :=
  updateWith (fun a b => boolWord (rel a b)) r1 b s

/-- `if bad(x[r1], b) then raise e`, else `x[r1] <- f(x[r1], b)`: the instructions with a mathematical error
(spec/60_exceptions.md R257 to R261). On the error no register is written before the response (R264). -/
def updateUnless (bad : Word → Word → Bool) (e : HardwareError) (f : Word → Word → Word) (r1 : Reg) (b : Word)
    (s : State) : Result :=
  if bad (s.reg r1) b then raise e s else updateWith f r1 b s

end Sys2Proof.Machine
end

