-- ==== Sys2Proof/Machine/Binary.lean ====
section
/-! DEFINITION. Binary operations, opcodes 32 to 37 (spec/45_binary_ops.md R190 to R196). -/

namespace Sys2Proof.Machine

/-- The logical shift by a signed count (R195): to the left by `n`, to the right by `-n` where it is negative, zeros
entering. The count is not masked, and 32 or more positions leave nothing (D11; entry 15): the two guards only spare
the shift of a count that large. -/
def shiftLeft (a b : Word) : Word :=
  let n := b.toInt
  if 0 ≤ n then (if n < 32 then a <<< n.toNat else 0)
  else if -32 < n then a >>> (-n).toNat else 0

/-- `NOT r1` (R190). -/
def execNotReg (r1 : Reg) (s : State) : Result :=
  updateReg (~~~ ·) r1 s

/-- `AND r1, imm` (R191). -/
def execAndImm (r1 : Reg) (imm : Word) (s : State) : Result :=
  updateWith (· &&& ·) r1 imm s

/-- `AND r1, r2` (R191). -/
def execAndReg (r1 r2 : Reg) (s : State) : Result :=
  updateWith (· &&& ·) r1 (s.reg r2) s

/-- `OR r1, imm` (R192). -/
def execOrImm (r1 : Reg) (imm : Word) (s : State) : Result :=
  updateWith (· ||| ·) r1 imm s

/-- `OR r1, r2` (R192). -/
def execOrReg (r1 r2 : Reg) (s : State) : Result :=
  updateWith (· ||| ·) r1 (s.reg r2) s

/-- `XOR r1, imm` (R193). -/
def execXorImm (r1 : Reg) (imm : Word) (s : State) : Result :=
  updateWith (· ^^^ ·) r1 imm s

/-- `XOR r1, r2` (R193). -/
def execXorReg (r1 r2 : Reg) (s : State) : Result :=
  updateWith (· ^^^ ·) r1 (s.reg r2) s

/-- `BNOT r1` (R194): every non-zero word gives 0. -/
def execBnot (r1 : Reg) (s : State) : Result :=
  updateReg (fun a => boolWord (a == 0)) r1 s

/-- `SHL r1, imm` (R195). -/
def execShlImm (r1 : Reg) (imm : Word) (s : State) : Result :=
  updateWith shiftLeft r1 imm s

/-- `SHL r1, r2` (R195). -/
def execShlReg (r1 r2 : Reg) (s : State) : Result :=
  updateWith shiftLeft r1 (s.reg r2) s

end Sys2Proof.Machine
end

