-- ==== Sys2Proof/Machine/Float.lean ====
section
/-! DEFINITION. `FloatOps` (spec/47_float_arithmetic.md R225): a float is an IEEE 754 binary32 value, rounded to
nearest, ties to even, with no traps and no status flags (R215). PRESUMED, unsafe: the sources name no format, and the
spec takes this default from general knowledge (D3; entry 4). What the default does not fix is a free value of Config.

Every finite binary32 value is a whole number of units of 2^-149, the smallest subnormal. The operations compute
exactly in these units and round once at the end. -/

namespace Sys2Proof.Machine.F32

/-! ### The format (R215) -/

/-- Bit 31, the sign. -/
def sign (w : Word) : Bool := w.getLsbD 31

/-- Bits 30:23, the exponent field. -/
def exponent (w : Word) : Nat := w.toNat / 2 ^ 23 % 2 ^ 8

/-- Bits 22:0, the fraction field. -/
def fraction (w : Word) : Nat := w.toNat % 2 ^ 23

/-- The word of a sign and a magnitude pattern (bits 30:0). -/
def ofSign (neg : Bool) (magnitude : Nat) : Word := BitVec.ofNat 32 (magnitude + if neg then 2 ^ 31 else 0)

/-- The magnitude pattern of an infinity. -/
def infMagnitude : Nat := 0x7F800000

def isNaN (w : Word) : Bool := exponent w == 255 && fraction w != 0

def isInf (w : Word) : Bool := exponent w == 255 && fraction w == 0

def inf (neg : Bool) : Word := ofSign neg infMagnitude

def zero (neg : Bool) : Word := ofSign neg 0

/-- The float 1.0. -/
def one : Word := 0x3F800000

/-- The magnitude in units of 2^-149; an infinity counts as 2^277 units, above every finite magnitude. -/
def units (w : Word) : Nat :=
  if exponent w = 0 then fraction w else (2 ^ 23 + fraction w) * 2 ^ (exponent w - 1)

/-- The value in units of 2^-149. -/
def value (w : Word) : Int := if sign w then -(units w : Int) else units w

/-- 1.0 in units of 2^-149. -/
def unit : Nat := 2 ^ 149

/-- The magnitude pattern nearest to `num / den` units, ties to even (R215): 24 significant bits are kept, the rest
is rounded, and a carry or a too large result runs into the exponent field, the latter up to infinity. -/
def roundMagnitude (num den : Nat) : Nat :=
  let k := (num / den).log2 - 23
  let step := den * 2 ^ k
  let q := num / step
  let r := num % step
  let m := if 2 * r > step || (2 * r == step && q % 2 == 1) then q + 1 else q
  min (k * 2 ^ 23 + m) infMagnitude

/-- The float nearest to `± num / den` units. -/
def round (neg : Bool) (num den : Nat) : Word := ofSign neg (roundMagnitude num den)

/-- A NaN whose sign and payload are the free word's where that is a NaN: every NaN is possible (entry 5). -/
def nanOf (free : Word) : Word := if isNaN free then free else 0x7FC00000

/-- An infinity whose sign is the free word's sign. -/
def infOf (free : Word) : Word := inf (sign free)

/-! ### Relations (spec/41_comparisons.md R137, D18; entry 6) -/

/-- Every relation but `ne` is false where an operand is a NaN. -/
def ordered (a b : Word) : Bool := !isNaN a && !isNaN b

def eq (a b : Word) : Bool := ordered a b && value a == value b
def ne (a b : Word) : Bool := !eq a b
def lt (a b : Word) : Bool := ordered a b && decide (value a < value b)
def le (a b : Word) : Bool := ordered a b && decide (value a ≤ value b)
def gt (a b : Word) : Bool := lt b a
def ge (a b : Word) : Bool := le b a

/-- Equal to 0.0, either sign (D20; entry 10). -/
def isZero (a : Word) : Bool := eq a 0

/-! ### Arithmetic (R216 to R224) -/

/-- The sign bit inverted, for every word (R221). -/
def neg (a : Word) : Word := a ^^^ 0x80000000

/-- The sign bit cleared, for every word (R224). -/
def abs (a : Word) : Word := a &&& 0x7FFFFFFF

/-- The sum; `free` gives the bits of a NaN result. An exact zero sum is +0.0 unless both operands are -0.0. -/
def addOr (free a b : Word) : Word :=
  if isNaN a || isNaN b then nanOf free
  else if isInf a then (if isInf b && sign a != sign b then nanOf free else a)
  else if isInf b then b
  else
    let n := value a + value b
    if n = 0 then zero (sign a && sign b) else round (decide (n < 0)) n.natAbs 1

def add (a b : Word) : Word := addOr (Config.nanBits .add a b) a b

def sub (a b : Word) : Word := addOr (Config.nanBits .sub a b) a (neg b)

def mul (a b : Word) : Word :=
  let neg := sign a != sign b
  if isNaN a || isNaN b then nanOf (Config.nanBits .mul a b)
  else if isInf a || isInf b then
    if units a = 0 || units b = 0 then nanOf (Config.nanBits .mul a b) else inf neg
  else round neg (units a * units b) unit

/-- The quotient by a divisor that is not zero (a zero divisor raises the error first, R219). -/
def div (a b : Word) : Word :=
  let neg := sign a != sign b
  if isNaN a || isNaN b then nanOf (Config.nanBits .div a b)
  else if isInf a then (if isInf b then nanOf (Config.nanBits .div a b) else inf neg)
  else if isInf b then zero neg
  else round neg (units a * unit) (units b)

/-- The exact remainder `p - q * trunc(p / q)` by a divisor that is not zero, with the dividend's sign (R220;
entry 9). -/
def fmod (a b : Word) : Word :=
  if isNaN a || isNaN b || isInf a then nanOf (Config.nanBits .fmod a b)
  else if isInf b then a
  else round (sign a) (units a % units b) 1

/-- The lesser operand; the first is kept where `b < a` does not hold (R222, D18; entry 6). -/
def min (a b : Word) : Word := if lt b a then b else a

/-- The greater operand; the first is kept where `b > a` does not hold (R223, D18; entry 6). -/
def max (a b : Word) : Word := if gt b a then b else a

/-! ### Conversions (spec/44_conversions.md) -/

/-- The float nearest to an integer, ties to even (R180, D23). -/
def ofInt (n : Int) : Word := round (decide (n < 0)) (n.natAbs * unit) 1

/-- The value with its fractional part dropped, for a float that is no infinity and no NaN (R181). -/
def trunc (a : Word) : Int := if sign a then -((units a / unit : Nat) : Int) else (units a / unit : Nat)

/-- Does a signed 32-bit integer hold the truncated value (R181)? -/
def fitsInt (a : Word) : Bool :=
  !isNaN a && !isInf a && decide (-2 ^ 31 ≤ trunc a) && decide (trunc a < 2 ^ 31)

/-- The truncated value, or the free value `CFI_OUT_OF_RANGE` where no signed 32-bit integer holds it (R181, D21;
entry 12). -/
def toInt (a : Word) : Word := if fitsInt a then word (trunc a) else Config.cfiOutOfRange a

/-! ### Rounding to an integral value (spec/48_float_extended.md R231 to R233; entries 7, 8) -/

/-- `n` whole units of 1.0 with a given sign; integral values of this size are exact. -/
def integral (neg : Bool) (n : Nat) : Word := round neg (n * unit) 1

/-- NaNs and infinities are kept; the sign is kept, so that a zero result keeps it too. -/
def toIntegral (magnitude : Bool → Nat → Nat) (a : Word) : Word :=
  if isNaN a || isInf a then a else integral (sign a) (magnitude (sign a) (units a))

/-- The magnitude of `units / unit` rounded towards zero, away from zero, and to nearest with ties away from zero. -/
def towardZero (n : Nat) : Nat := n / unit
def awayFromZero (n : Nat) : Nat := (n + (unit - 1)) / unit
def toNearest (n : Nat) : Nat := (2 * n + unit) / (2 * unit)

def floor (a : Word) : Word := toIntegral (fun neg n => if neg then awayFromZero n else towardZero n) a

def ceil (a : Word) : Word := toIntegral (fun neg n => if neg then towardZero n else awayFromZero n) a

/-- Halfway cases go away from zero (R233, D19; entry 7). -/
def roundNearest (a : Word) : Word := toIntegral (fun _ n => toNearest n) a

/-! ### The functions of the mathematical library (R234 to R238; entry 11)

The spec fixes no result bits (D24). A result is a free value, kept inside what the spec does state of it. -/

/-- The float nearest to pi. -/
def pi : Word := 0x40490FDB

/-- The floats nearest to pi/2, pi/4 and 3pi/4. -/
def halfPi : Word := 0x3FC90FDB
def quarterPi : Word := 0x3F490FDB
def threeQuarterPi : Word := 0x4016CBE4

/-- The free word where it is a float of the closed interval, else the lower end. -/
def within (lo hi free : Word) : Word := if le lo free && le free hi then free else lo

/-- The sine of an infinity or a NaN is a NaN; no limit is stated for the rest (R234). -/
def sin (a : Word) : Word :=
  if isNaN a || isInf a then nanOf (Config.nanBits .sin a 0) else Config.sin a

/-- The result is in the range [0, pi] (R235). -/
def acos (a : Word) : Word := within 0 pi (Config.acos a)

/-- The angle whose nearest float is `angle`, given by the spec as a number: a free word may differ from that float in
the last place (R230, D24). -/
def near (angle free : Word) : Word := if free = angle - 1 ∨ free = angle + 1 then free else angle

/-- The size of the angle of the vector (x, y), of which no operand is a NaN, not both are zero, and the origin of
angles (Vx > 0, Vy = 0) is left out (R236): pi/2 where Vx is zero, pi where Vy is, pi/4 or 3pi/4 where both are equal,
else a free word of the quadrant. A size near pi does not exceed the range's end. -/
def angleSize (y x free : Word) : Word :=
  if isZero x then near halfPi free
  else if isZero y then (if free = pi - 1 then free else pi)
  else if eq y x then near (if sign y then threeQuarterPi else quarterPi) free
  else if sign x then within halfPi pi free
  else within 0 halfPi free

/-- The angle of the vector (R236): zero at the origin of angles, and with the sign of Vy everywhere else, so that it
grows towards Vy > 0. Nothing is stated for a NaN operand, nor of the sign of the zero for a Vy of -0.0. -/
def atan2 (y x : Word) : Word :=
  let free := Config.atan2 y x
  if isNaN y || isNaN x then free
  else if isZero y && lt 0 x then zero (sign y && sign free)
  else if sign y then neg (angleSize y x (abs free)) else angleSize y x (abs free)

/-- A NaN gives a NaN, positive infinity gives positive infinity (R237). -/
def log (a : Word) : Word :=
  if isNaN a then nanOf (Config.nanBits .log a 0) else if isInf a then inf false else Config.log a

/-- Anything to the power 0.0 is 1.0, zero to a negative power is an infinity (R238). -/
def pow (b e : Word) : Word :=
  if isZero e then one
  else if isZero b && lt e 0 then infOf (Config.pow b e)
  else Config.pow b e

/-! ### The error conditions (spec/60_exceptions.md R257 to R261, D20; entry 10) -/

/-- Not between -1.0 and +1.0, both included (R258); so for a NaN. -/
def acosError (a : Word) : Bool := !(le (neg one) a && le a one)

/-- Both zero (R259). -/
def atan2Error (y x : Word) : Bool := isZero y && isZero x

/-- Less than or equal to zero (R260); not so for a NaN. -/
def logError (a : Word) : Bool := le a 0

/-- A negative base and an exponent that is no integer (R261). -/
def powError (b e : Word) : Bool := lt b 0 && ne e (floor e)

end Sys2Proof.Machine.F32
end

