-- ==== Sys2Proof/Machine/Compare.lean ====
section
/-! DEFINITION. Integer and float comparisons, opcodes 7 to 18 (spec/41_comparisons.md R130 to R143). Integers are signed (R130);
floats are compared as floats, not as bit patterns (R137). -/

namespace Sys2Proof.Machine

/-- The integer relations on the signed readings (R130); equality is that of the words (R131). -/
def intGt (a b : Word) : Bool := decide (a.toInt > b.toInt)
def intGe (a b : Word) : Bool := decide (a.toInt ≥ b.toInt)
def intLt (a b : Word) : Bool := decide (a.toInt < b.toInt)
def intLe (a b : Word) : Bool := decide (a.toInt ≤ b.toInt)

/-- `IEQ r1, imm` (R131). -/
def execIeqImm (r1 : Reg) (imm : Word) (s : State) : Result :=
  compareWith (· == ·) r1 imm s

/-- `IEQ r1, r2` (R131). -/
def execIeqReg (r1 r2 : Reg) (s : State) : Result :=
  compareWith (· == ·) r1 (s.reg r2) s

/-- `INE r1, imm` (R132). -/
def execIneImm (r1 : Reg) (imm : Word) (s : State) : Result :=
  compareWith (· != ·) r1 imm s

/-- `INE r1, r2` (R132). -/
def execIneReg (r1 r2 : Reg) (s : State) : Result :=
  compareWith (· != ·) r1 (s.reg r2) s

/-- `IGT r1, imm` (R133). -/
def execIgtImm (r1 : Reg) (imm : Word) (s : State) : Result :=
  compareWith intGt r1 imm s

/-- `IGT r1, r2` (R133). -/
def execIgtReg (r1 r2 : Reg) (s : State) : Result :=
  compareWith intGt r1 (s.reg r2) s

/-- `IGE r1, imm` (R134). -/
def execIgeImm (r1 : Reg) (imm : Word) (s : State) : Result :=
  compareWith intGe r1 imm s

/-- `IGE r1, r2` (R134). -/
def execIgeReg (r1 r2 : Reg) (s : State) : Result :=
  compareWith intGe r1 (s.reg r2) s

/-- `ILT r1, imm` (R135). -/
def execIltImm (r1 : Reg) (imm : Word) (s : State) : Result :=
  compareWith intLt r1 imm s

/-- `ILT r1, r2` (R135). -/
def execIltReg (r1 r2 : Reg) (s : State) : Result :=
  compareWith intLt r1 (s.reg r2) s

/-- `ILE r1, imm` (R136). -/
def execIleImm (r1 : Reg) (imm : Word) (s : State) : Result :=
  compareWith intLe r1 imm s

/-- `ILE r1, r2` (R136). -/
def execIleReg (r1 r2 : Reg) (s : State) : Result :=
  compareWith intLe r1 (s.reg r2) s

/-- `FEQ r1, imm` (R138). -/
def execFeqImm (r1 : Reg) (imm : Word) (s : State) : Result :=
  compareWith F32.eq r1 imm s

/-- `FEQ r1, r2` (R138). -/
def execFeqReg (r1 r2 : Reg) (s : State) : Result :=
  compareWith F32.eq r1 (s.reg r2) s

/-- `FNE r1, imm` (R139). -/
def execFneImm (r1 : Reg) (imm : Word) (s : State) : Result :=
  compareWith F32.ne r1 imm s

/-- `FNE r1, r2` (R139). -/
def execFneReg (r1 r2 : Reg) (s : State) : Result :=
  compareWith F32.ne r1 (s.reg r2) s

/-- `FGT r1, imm` (R140). -/
def execFgtImm (r1 : Reg) (imm : Word) (s : State) : Result :=
  compareWith F32.gt r1 imm s

/-- `FGT r1, r2` (R140). -/
def execFgtReg (r1 r2 : Reg) (s : State) : Result :=
  compareWith F32.gt r1 (s.reg r2) s

/-- `FGE r1, imm` (R141). -/
def execFgeImm (r1 : Reg) (imm : Word) (s : State) : Result :=
  compareWith F32.ge r1 imm s

/-- `FGE r1, r2` (R141). -/
def execFgeReg (r1 r2 : Reg) (s : State) : Result :=
  compareWith F32.ge r1 (s.reg r2) s

/-- `FLT r1, imm` (R142). -/
def execFltImm (r1 : Reg) (imm : Word) (s : State) : Result :=
  compareWith F32.lt r1 imm s

/-- `FLT r1, r2` (R142). -/
def execFltReg (r1 r2 : Reg) (s : State) : Result :=
  compareWith F32.lt r1 (s.reg r2) s

/-- `FLE r1, imm` (R143). -/
def execFleImm (r1 : Reg) (imm : Word) (s : State) : Result :=
  compareWith F32.le r1 imm s

/-- `FLE r1, r2` (R143). -/
def execFleReg (r1 r2 : Reg) (s : State) : Result :=
  compareWith F32.le r1 (s.reg r2) s

end Sys2Proof.Machine
end

