-- ==== Sys2Proof/Machine/Flags.lean ====
section
/-! DEFINITION. The two control flags (spec/10_state.md R29 to R31). There are no condition codes: no instruction has
a flag side effect but HLT and WAIT (R32). Results of comparisons are words in registers, written here once. -/

namespace Sys2Proof.Machine

/-- The Halt flag is set: by `HLT` only (R30). -/
def State.setHalt (s : State) : State := { s with halt := true }

/-- The Wait flag is set: by `WAIT` only (R31). -/
def State.setWait (s : State) : State := { s with wait := true }

/-- A cycle signal is ignored while a control flag is set (spec/60_exceptions.md R271). -/
def State.stopped (s : State) : Bool := s.halt || s.wait

end Sys2Proof.Machine
end

