-- ==== Sys2Proof/Machine/Control.lean ====
section
/-! DEFINITION. CPU control and jumps, opcodes 0 to 6 (spec/40_control_and_jumps.md). At the execute step `pc` already
holds the address of the word after the instruction (spec/30_encoding.md R85). -/

namespace Sys2Proof.Machine

/-- `HLT` (R110). -/
def execHlt (s : State) : Result := .next s.setHalt

/-- `WAIT` (R111). -/
def execWait (s : State) : Result := .next s.setWait

/-- The jump to an absolute word address (R112). -/
def jump (target : Word) (s : State) : Result := .next (s.setPc target)

/-- `JMP imm` (R112). -/
def execJmpImm (imm : Word) (s : State) : Result := jump imm s

/-- `JMP r1` (R112). -/
def execJmpReg (r1 : Reg) (s : State) : Result := jump (s.reg r1) s

/-- `CALL imm` (R113): the return address is pushed, then the jump is made. -/
def execCallImm (imm : Word) (s : State) : Result := stackPush s.pc s fun s => jump imm s

/-- `CALL r1` (R113): the register is read after the push. -/
def execCallReg (r1 : Reg) (s : State) : Result := stackPush s.pc s fun s => jump (s.reg r1) s

/-- `RET` (R114). -/
def execRet (s : State) : Result := stackPop s jump

/-- The jump made only where the condition holds (R115, R116). -/
def jumpIf (cond : Bool) (target : Word) (s : State) : Result := if cond then jump target s else .next s

/-- `JT r1, imm` (R115): every non-zero word is true. -/
def execJtImm (r1 : Reg) (imm : Word) (s : State) : Result := jumpIf (s.reg r1 != 0) imm s

/-- `JT r1, r2` (R115). -/
def execJtReg (r1 r2 : Reg) (s : State) : Result := jumpIf (s.reg r1 != 0) (s.reg r2) s

/-- `JF r1, imm` (R116): only the zero word is false. -/
def execJfImm (r1 : Reg) (imm : Word) (s : State) : Result := jumpIf (s.reg r1 == 0) imm s

/-- `JF r1, r2` (R116). -/
def execJfReg (r1 r2 : Reg) (s : State) : Result := jumpIf (s.reg r1 == 0) (s.reg r2) s

end Sys2Proof.Machine
end

