-- ==== Sys2Proof/Machine/Convert.lean ====
section
/-! DEFINITION. Data conversion, opcodes 28 to 31 (spec/44_conversions.md R180 to R183). -/

namespace Sys2Proof.Machine

/-- `CIF r1` (R180): the signed integer as a float, rounded to nearest. -/
def execCif (r1 : Reg) (s : State) : Result :=
  updateReg (fun a => F32.ofInt a.toInt) r1 s

/-- `CFI r1` (R181): truncated toward zero; out of range the result is the free value `CFI_OUT_OF_RANGE`. -/
def execCfi (r1 : Reg) (s : State) : Result :=
  updateReg F32.toInt r1 s

/-- `CIB r1` (R182): the test is on all 32 bits. -/
def execCib (r1 : Reg) (s : State) : Result :=
  updateReg (fun a => boolWord (a != 0)) r1 s

/-- `CFB r1` (R183): the test is a float comparison, so both zeros give 0. -/
def execCfb (r1 : Reg) (s : State) : Result :=
  updateReg (fun a => boolWord (F32.ne a 0)) r1 s

end Sys2Proof.Machine
end

