-- ==== Sys2Proof/Machine/Data.lean ====
section
/-! DEFINITION. Data movement, opcodes 19 to 24 (spec/42_data_movement.md R150 to R156). -/

namespace Sys2Proof.Machine

/-- `x[r1] <- MemRead(a, 1)` (R150). -/
def load (r1 : Reg) (a : Word) (s : State) : Result := memRead a s fun w s => .next (s.setReg r1 w)

/-- `MemWrite(a, 1, x[r2])` (R150). -/
def store (a : Word) (r2 : Reg) (s : State) : Result := memWrite a (s.reg r2) s .next

/-- `MOV r1, imm`, mode 0 (R150). -/
def execMovRegImm (r1 : Reg) (imm : Word) (s : State) : Result := .next (s.setReg r1 imm)

/-- `MOV r1, r2`, mode 1 (R150). -/
def execMovRegReg (r1 r2 : Reg) (s : State) : Result := .next (s.setReg r1 (s.reg r2))

/-- `MOV r1, [imm]`, mode 2 (R150). -/
def execMovRegMemImm (r1 : Reg) (imm : Word) (s : State) : Result := load r1 imm s

/-- `MOV r1, [r2]`, mode 3 (R150). -/
def execMovRegMemReg (r1 r2 : Reg) (s : State) : Result := load r1 (s.reg r2) s

/-- `MOV r1, [r2 + imm]`, mode 4 (R150). -/
def execMovRegMemRegImm (r1 r2 : Reg) (imm : Word) (s : State) : Result := load r1 (s.sumAddress r2 imm) s

/-- `MOV [imm], r2`, mode 5 (R150). -/
def execMovMemImmReg (r2 : Reg) (imm : Word) (s : State) : Result := store imm r2 s

/-- `MOV [r1], r2`, mode 6 (R150). -/
def execMovMemRegReg (r1 r2 : Reg) (s : State) : Result := store (s.reg r1) r2 s

/-- `MOV [r1 + imm], r2`, mode 7 (R150). -/
def execMovMemRegImmReg (r1 r2 : Reg) (imm : Word) (s : State) : Result := store (s.sumAddress r1 imm) r2 s

/-- `LEA r1, [r2]` (R151): no memory is accessed. -/
def execLeaReg (r1 r2 : Reg) (s : State) : Result := .next (s.setReg r1 (s.reg r2))

/-- `LEA r1, [r2 + imm]` (R151). -/
def execLeaRegImm (r1 r2 : Reg) (imm : Word) (s : State) : Result := .next (s.setReg r1 (s.sumAddress r2 imm))

/-- `PUSH r1` (R152): `PUSH SP` stores the value SP had before the decrement. -/
def execPush (r1 : Reg) (s : State) : Result := stackPush (s.reg r1) s .next

/-- `POP r1` (R153): the popped word is written after SP has moved, so `POP SP` ends with the popped word. -/
def execPop (r1 : Reg) (s : State) : Result := stackPop s fun w s => .next (s.setReg r1 w)

/-- `IN r1, port` (R154). -/
def execInPort (r1 : Reg) (port : Nat) (s : State) : Result := portRead port s fun w s => .next (s.setReg r1 w)

/-- `OUT port, imm` (R155): the immediate itself is written, no memory is read (spec/30_encoding.md R100). -/
def execOutImm (port : Nat) (imm : Word) (s : State) : Result := portWrite port imm s .next

/-- `OUT port, r1` (R155). -/
def execOutReg (port : Nat) (r1 : Reg) (s : State) : Result := portWrite port (s.reg r1) s .next

end Sys2Proof.Machine
end

