-- ==== Sys2Proof/Machine/FloatArith.lean ====
section
/-! DEFINITION. Float arithmetic, opcodes 47 to 55 (spec/47_float_arithmetic.md R215 to R224). -/

namespace Sys2Proof.Machine

/-- The condition of the float division error: the divisor is a zero of either sign (R219, R220, D20; entry 10). -/
def floatDivisorZero (_ b : Word) : Bool := F32.isZero b

/-- `FADD r1, imm` (R216). -/
def execFaddImm (r1 : Reg) (imm : Word) (s : State) : Result :=
  updateWith F32.add r1 imm s

/-- `FADD r1, r2` (R216). -/
def execFaddReg (r1 r2 : Reg) (s : State) : Result :=
  updateWith F32.add r1 (s.reg r2) s

/-- `FSUB r1, imm` (R217). -/
def execFsubImm (r1 : Reg) (imm : Word) (s : State) : Result :=
  updateWith F32.sub r1 imm s

/-- `FSUB r1, r2` (R217). -/
def execFsubReg (r1 r2 : Reg) (s : State) : Result :=
  updateWith F32.sub r1 (s.reg r2) s

/-- `FMUL r1, imm` (R218). -/
def execFmulImm (r1 : Reg) (imm : Word) (s : State) : Result :=
  updateWith F32.mul r1 imm s

/-- `FMUL r1, r2` (R218). -/
def execFmulReg (r1 r2 : Reg) (s : State) : Result :=
  updateWith F32.mul r1 (s.reg r2) s

/-- `FDIV r1, imm` (R219). -/
def execFdivImm (r1 : Reg) (imm : Word) (s : State) : Result :=
  updateUnless floatDivisorZero .divisionError F32.div r1 imm s

/-- `FDIV r1, r2` (R219). -/
def execFdivReg (r1 r2 : Reg) (s : State) : Result :=
  updateUnless floatDivisorZero .divisionError F32.div r1 (s.reg r2) s

/-- `FMOD r1, imm` (R220). -/
def execFmodImm (r1 : Reg) (imm : Word) (s : State) : Result :=
  updateUnless floatDivisorZero .divisionError F32.fmod r1 imm s

/-- `FMOD r1, r2` (R220). -/
def execFmodReg (r1 r2 : Reg) (s : State) : Result :=
  updateUnless floatDivisorZero .divisionError F32.fmod r1 (s.reg r2) s

/-- `FSGN r1` (R221). -/
def execFsgn (r1 : Reg) (s : State) : Result :=
  updateReg F32.neg r1 s

/-- `FMIN r1, imm` (R222). -/
def execFminImm (r1 : Reg) (imm : Word) (s : State) : Result :=
  updateWith F32.min r1 imm s

/-- `FMIN r1, r2` (R222). -/
def execFminReg (r1 r2 : Reg) (s : State) : Result :=
  updateWith F32.min r1 (s.reg r2) s

/-- `FMAX r1, imm` (R223). -/
def execFmaxImm (r1 : Reg) (imm : Word) (s : State) : Result :=
  updateWith F32.max r1 imm s

/-- `FMAX r1, r2` (R223). -/
def execFmaxReg (r1 r2 : Reg) (s : State) : Result :=
  updateWith F32.max r1 (s.reg r2) s

/-- `FABS r1` (R224). -/
def execFabs (r1 : Reg) (s : State) : Result :=
  updateReg F32.abs r1 s

end Sys2Proof.Machine
end

