-- ==== Sys2Proof/Machine/FloatExt.lean ====
section
/-! DEFINITION. Extended float operations, opcodes 56 to 63 (spec/48_float_extended.md R230 to R238). An error condition is tested
before anything is written (R230). -/

namespace Sys2Proof.Machine

/-- `updateUnless` with one operand: `if bad(x[r1]) then raise e`, else `x[r1] <- f(x[r1])` (R230). -/
def updateRegUnless (bad : Word → Bool) (e : HardwareError) (f : Word → Word) (r1 : Reg) (s : State) : Result :=
  if bad (s.reg r1) then raise e s else updateReg f r1 s

/-- `FLR r1` (R231). -/
def execFlr (r1 : Reg) (s : State) : Result :=
  updateReg F32.floor r1 s

/-- `CEIL r1` (R232). -/
def execCeil (r1 : Reg) (s : State) : Result :=
  updateReg F32.ceil r1 s

/-- `ROUND r1` (R233). -/
def execRound (r1 : Reg) (s : State) : Result :=
  updateReg F32.roundNearest r1 s

/-- `SIN r1` (R234). -/
def execSin (r1 : Reg) (s : State) : Result :=
  updateReg F32.sin r1 s

/-- `ACOS r1` (R235). -/
def execAcos (r1 : Reg) (s : State) : Result :=
  updateRegUnless F32.acosError .arcCosineError F32.acos r1 s

/-- `ATAN2 r1, r2` (R236): the first operand is the y component. -/
def execAtan2 (r1 r2 : Reg) (s : State) : Result :=
  updateUnless F32.atan2Error .arcTangent2Error F32.atan2 r1 (s.reg r2) s

/-- `LOG r1` (R237). -/
def execLog (r1 : Reg) (s : State) : Result :=
  updateRegUnless F32.logError .logarithmError F32.log r1 s

/-- `POW r1, r2` (R238): the first operand is the base. -/
def execPow (r1 r2 : Reg) (s : State) : Result :=
  updateUnless F32.powError .powerError F32.pow r1 (s.reg r2) s

end Sys2Proof.Machine
end

