-- ==== Sys2Proof/Machine/IntArith.lean ====
section
/-! DEFINITION. Integer arithmetic, opcodes 38 to 46 (spec/46_integer_arithmetic.md R200 to R210): the operands are read as signed
integers, the result is exact and then taken modulo 2^32 (R200). -/

namespace Sys2Proof.Machine

/-- The one quotient that no signed word holds: -2^31 by -1 (R204). -/
def divOverflows (a b : Word) : Bool := a == 0x80000000 && b == 0xFFFFFFFF

/-- The quotient rounded toward zero (R204, D9; entry 13). -/
def quotient (a b : Word) : Word :=
  if divOverflows a b then Config.idivOverflow a b else word (a.toInt.tdiv b.toInt)

/-- The remainder of the same division (R205, D9; entry 13). -/
def remainder (a b : Word) : Word :=
  if divOverflows a b then Config.imodOverflow a b else word (a.toInt - b.toInt * a.toInt.tdiv b.toInt)

/-- The condition of the integer division error: the divisor is zero (spec/60_exceptions.md R257). -/
def divisorZero (_ b : Word) : Bool := b == 0

/-- The sign inverted, modulo 2^32 (R206, D10; entry 14). -/
def intNeg (a : Word) : Word := word (-a.toInt)

/-- The absolute value, modulo 2^32 (R209, D10; entry 14). -/
def intAbs (a : Word) : Word := if a.toInt < 0 then word (-a.toInt) else a

/-- `IADD r1, imm` (R201). -/
def execIaddImm (r1 : Reg) (imm : Word) (s : State) : Result :=
  updateWith (fun a b => word (a.toInt + b.toInt)) r1 imm s

/-- `IADD r1, r2` (R201). -/
def execIaddReg (r1 r2 : Reg) (s : State) : Result :=
  updateWith (fun a b => word (a.toInt + b.toInt)) r1 (s.reg r2) s

/-- `ISUB r1, imm` (R202). -/
def execIsubImm (r1 : Reg) (imm : Word) (s : State) : Result :=
  updateWith (fun a b => word (a.toInt - b.toInt)) r1 imm s

/-- `ISUB r1, r2` (R202). -/
def execIsubReg (r1 r2 : Reg) (s : State) : Result :=
  updateWith (fun a b => word (a.toInt - b.toInt)) r1 (s.reg r2) s

/-- `IMUL r1, imm` (R203). -/
def execImulImm (r1 : Reg) (imm : Word) (s : State) : Result :=
  updateWith (fun a b => word (a.toInt * b.toInt)) r1 imm s

/-- `IMUL r1, r2` (R203). -/
def execImulReg (r1 r2 : Reg) (s : State) : Result :=
  updateWith (fun a b => word (a.toInt * b.toInt)) r1 (s.reg r2) s

/-- `IDIV r1, imm` (R204). -/
def execIdivImm (r1 : Reg) (imm : Word) (s : State) : Result :=
  updateUnless divisorZero .divisionError quotient r1 imm s

/-- `IDIV r1, r2` (R204). -/
def execIdivReg (r1 r2 : Reg) (s : State) : Result :=
  updateUnless divisorZero .divisionError quotient r1 (s.reg r2) s

/-- `IMOD r1, imm` (R205). -/
def execImodImm (r1 : Reg) (imm : Word) (s : State) : Result :=
  updateUnless divisorZero .divisionError remainder r1 imm s

/-- `IMOD r1, r2` (R205). -/
def execImodReg (r1 r2 : Reg) (s : State) : Result :=
  updateUnless divisorZero .divisionError remainder r1 (s.reg r2) s

/-- `ISGN r1` (R206). -/
def execIsgn (r1 : Reg) (s : State) : Result :=
  updateReg intNeg r1 s

/-- `IMIN r1, imm` (R207). -/
def execIminImm (r1 : Reg) (imm : Word) (s : State) : Result :=
  updateWith (fun a b => if b.toInt < a.toInt then b else a) r1 imm s

/-- `IMIN r1, r2` (R207). -/
def execIminReg (r1 r2 : Reg) (s : State) : Result :=
  updateWith (fun a b => if b.toInt < a.toInt then b else a) r1 (s.reg r2) s

/-- `IMAX r1, imm` (R208). -/
def execImaxImm (r1 : Reg) (imm : Word) (s : State) : Result :=
  updateWith (fun a b => if b.toInt > a.toInt then b else a) r1 imm s

/-- `IMAX r1, r2` (R208). -/
def execImaxReg (r1 r2 : Reg) (s : State) : Result :=
  updateWith (fun a b => if b.toInt > a.toInt then b else a) r1 (s.reg r2) s

/-- `IABS r1` (R209). -/
def execIabs (r1 : Reg) (s : State) : Result :=
  updateReg intAbs r1 s

end Sys2Proof.Machine
end

