-- ==== Sys2Proof/Machine/Strings.lean ====
section
/-! DEFINITION. String instructions, opcodes 25 to 27 (spec/43_string_ops.md). One execution is one iteration; the
instruction repeats itself by moving `pc` back to its own address (R170). -/

namespace Sys2Proof.Machine

/-- `x[r] <- x[r] + 1`. -/
def State.increment (s : State) (r : Reg) : State := s.setReg r (s.reg r + 1)

/-- `CR -= 1; if CR > 0 then pc -= 1`, the comparison signed (R170). -/
def State.countDown (s : State) : State :=
  let s := s.setReg CR (s.reg CR - 1)
  if (s.reg CR).toInt > 0 then s.setPc (s.pc - 1) else s

/-- `MOVS` (R171). -/
def execMovs (s : State) : Result :=
  memRead (s.reg SR) s fun t s =>
    memWrite (s.reg DR) t s fun s =>
      .next ((s.increment DR).increment SR).countDown

/-- `SETS` (R172). -/
def execSets (s : State) : Result :=
  memWrite (s.reg DR) (s.reg SR) s fun s => .next (s.increment DR).countDown

/-- `CMPS r1` (R173): `[DR]` is read before `[SR]`; the result register is written before the pointers move, so a
result in CR, SR or DR is what the updates below it see. -/
def execCmps (r1 : Reg) (s : State) : Result :=
  memRead (s.reg DR) s fun a s =>
    memRead (s.reg SR) s fun b s =>
      let s := s.setReg r1 (a - b)
      if s.reg r1 ≠ 0 then .next s
      else .next ((s.increment DR).increment SR).countDown

end Sys2Proof.Machine
end

