-- ==== Sys2Proof/Machine/Dispatch.lean ====
section
/-! DEFINITION. The execute step of the processing cycle (spec/30_encoding.md R89): one arm per constructor. -/

namespace Sys2Proof.Machine

def exec (i : Instr) (s : State) : Host.Outcome State Fault Refusal :=
  match i with
  | .hlt => Sys2Proof.Machine.execHlt s
  | .wait => Sys2Proof.Machine.execWait s
  | .jmpImm imm => Sys2Proof.Machine.execJmpImm imm s
  | .jmpReg r1 => Sys2Proof.Machine.execJmpReg r1 s
  | .callImm imm => Sys2Proof.Machine.execCallImm imm s
  | .callReg r1 => Sys2Proof.Machine.execCallReg r1 s
  | .ret => Sys2Proof.Machine.execRet s
  | .jtImm r1 imm => Sys2Proof.Machine.execJtImm r1 imm s
  | .jtReg r1 r2 => Sys2Proof.Machine.execJtReg r1 r2 s
  | .jfImm r1 imm => Sys2Proof.Machine.execJfImm r1 imm s
  | .jfReg r1 r2 => Sys2Proof.Machine.execJfReg r1 r2 s
  | .ieqImm r1 imm => Sys2Proof.Machine.execIeqImm r1 imm s
  | .ieqReg r1 r2 => Sys2Proof.Machine.execIeqReg r1 r2 s
  | .ineImm r1 imm => Sys2Proof.Machine.execIneImm r1 imm s
  | .ineReg r1 r2 => Sys2Proof.Machine.execIneReg r1 r2 s
  | .igtImm r1 imm => Sys2Proof.Machine.execIgtImm r1 imm s
  | .igtReg r1 r2 => Sys2Proof.Machine.execIgtReg r1 r2 s
  | .igeImm r1 imm => Sys2Proof.Machine.execIgeImm r1 imm s
  | .igeReg r1 r2 => Sys2Proof.Machine.execIgeReg r1 r2 s
  | .iltImm r1 imm => Sys2Proof.Machine.execIltImm r1 imm s
  | .iltReg r1 r2 => Sys2Proof.Machine.execIltReg r1 r2 s
  | .ileImm r1 imm => Sys2Proof.Machine.execIleImm r1 imm s
  | .ileReg r1 r2 => Sys2Proof.Machine.execIleReg r1 r2 s
  | .feqImm r1 imm => Sys2Proof.Machine.execFeqImm r1 imm s
  | .feqReg r1 r2 => Sys2Proof.Machine.execFeqReg r1 r2 s
  | .fneImm r1 imm => Sys2Proof.Machine.execFneImm r1 imm s
  | .fneReg r1 r2 => Sys2Proof.Machine.execFneReg r1 r2 s
  | .fgtImm r1 imm => Sys2Proof.Machine.execFgtImm r1 imm s
  | .fgtReg r1 r2 => Sys2Proof.Machine.execFgtReg r1 r2 s
  | .fgeImm r1 imm => Sys2Proof.Machine.execFgeImm r1 imm s
  | .fgeReg r1 r2 => Sys2Proof.Machine.execFgeReg r1 r2 s
  | .fltImm r1 imm => Sys2Proof.Machine.execFltImm r1 imm s
  | .fltReg r1 r2 => Sys2Proof.Machine.execFltReg r1 r2 s
  | .fleImm r1 imm => Sys2Proof.Machine.execFleImm r1 imm s
  | .fleReg r1 r2 => Sys2Proof.Machine.execFleReg r1 r2 s
  | .movRegImm r1 imm => Sys2Proof.Machine.execMovRegImm r1 imm s
  | .movRegReg r1 r2 => Sys2Proof.Machine.execMovRegReg r1 r2 s
  | .movRegMemImm r1 imm => Sys2Proof.Machine.execMovRegMemImm r1 imm s
  | .movRegMemReg r1 r2 => Sys2Proof.Machine.execMovRegMemReg r1 r2 s
  | .movRegMemRegImm r1 r2 imm => Sys2Proof.Machine.execMovRegMemRegImm r1 r2 imm s
  | .movMemImmReg r2 imm => Sys2Proof.Machine.execMovMemImmReg r2 imm s
  | .movMemRegReg r1 r2 => Sys2Proof.Machine.execMovMemRegReg r1 r2 s
  | .movMemRegImmReg r1 r2 imm => Sys2Proof.Machine.execMovMemRegImmReg r1 r2 imm s
  | .leaReg r1 r2 => Sys2Proof.Machine.execLeaReg r1 r2 s
  | .leaRegImm r1 r2 imm => Sys2Proof.Machine.execLeaRegImm r1 r2 imm s
  | .push r1 => Sys2Proof.Machine.execPush r1 s
  | .pop r1 => Sys2Proof.Machine.execPop r1 s
  | .inPort r1 port => Sys2Proof.Machine.execInPort r1 port s
  | .outImm port imm => Sys2Proof.Machine.execOutImm port imm s
  | .outReg port r1 => Sys2Proof.Machine.execOutReg port r1 s
  | .movs => Sys2Proof.Machine.execMovs s
  | .sets => Sys2Proof.Machine.execSets s
  | .cmps r1 => Sys2Proof.Machine.execCmps r1 s
  | .cif r1 => Sys2Proof.Machine.execCif r1 s
  | .cfi r1 => Sys2Proof.Machine.execCfi r1 s
  | .cib r1 => Sys2Proof.Machine.execCib r1 s
  | .cfb r1 => Sys2Proof.Machine.execCfb r1 s
  | .notReg r1 => Sys2Proof.Machine.execNotReg r1 s
  | .andImm r1 imm => Sys2Proof.Machine.execAndImm r1 imm s
  | .andReg r1 r2 => Sys2Proof.Machine.execAndReg r1 r2 s
  | .orImm r1 imm => Sys2Proof.Machine.execOrImm r1 imm s
  | .orReg r1 r2 => Sys2Proof.Machine.execOrReg r1 r2 s
  | .xorImm r1 imm => Sys2Proof.Machine.execXorImm r1 imm s
  | .xorReg r1 r2 => Sys2Proof.Machine.execXorReg r1 r2 s
  | .bnot r1 => Sys2Proof.Machine.execBnot r1 s
  | .shlImm r1 imm => Sys2Proof.Machine.execShlImm r1 imm s
  | .shlReg r1 r2 => Sys2Proof.Machine.execShlReg r1 r2 s
  | .iaddImm r1 imm => Sys2Proof.Machine.execIaddImm r1 imm s
  | .iaddReg r1 r2 => Sys2Proof.Machine.execIaddReg r1 r2 s
  | .isubImm r1 imm => Sys2Proof.Machine.execIsubImm r1 imm s
  | .isubReg r1 r2 => Sys2Proof.Machine.execIsubReg r1 r2 s
  | .imulImm r1 imm => Sys2Proof.Machine.execImulImm r1 imm s
  | .imulReg r1 r2 => Sys2Proof.Machine.execImulReg r1 r2 s
  | .idivImm r1 imm => Sys2Proof.Machine.execIdivImm r1 imm s
  | .idivReg r1 r2 => Sys2Proof.Machine.execIdivReg r1 r2 s
  | .imodImm r1 imm => Sys2Proof.Machine.execImodImm r1 imm s
  | .imodReg r1 r2 => Sys2Proof.Machine.execImodReg r1 r2 s
  | .isgn r1 => Sys2Proof.Machine.execIsgn r1 s
  | .iminImm r1 imm => Sys2Proof.Machine.execIminImm r1 imm s
  | .iminReg r1 r2 => Sys2Proof.Machine.execIminReg r1 r2 s
  | .imaxImm r1 imm => Sys2Proof.Machine.execImaxImm r1 imm s
  | .imaxReg r1 r2 => Sys2Proof.Machine.execImaxReg r1 r2 s
  | .iabs r1 => Sys2Proof.Machine.execIabs r1 s
  | .faddImm r1 imm => Sys2Proof.Machine.execFaddImm r1 imm s
  | .faddReg r1 r2 => Sys2Proof.Machine.execFaddReg r1 r2 s
  | .fsubImm r1 imm => Sys2Proof.Machine.execFsubImm r1 imm s
  | .fsubReg r1 r2 => Sys2Proof.Machine.execFsubReg r1 r2 s
  | .fmulImm r1 imm => Sys2Proof.Machine.execFmulImm r1 imm s
  | .fmulReg r1 r2 => Sys2Proof.Machine.execFmulReg r1 r2 s
  | .fdivImm r1 imm => Sys2Proof.Machine.execFdivImm r1 imm s
  | .fdivReg r1 r2 => Sys2Proof.Machine.execFdivReg r1 r2 s
  | .fmodImm r1 imm => Sys2Proof.Machine.execFmodImm r1 imm s
  | .fmodReg r1 r2 => Sys2Proof.Machine.execFmodReg r1 r2 s
  | .fsgn r1 => Sys2Proof.Machine.execFsgn r1 s
  | .fminImm r1 imm => Sys2Proof.Machine.execFminImm r1 imm s
  | .fminReg r1 r2 => Sys2Proof.Machine.execFminReg r1 r2 s
  | .fmaxImm r1 imm => Sys2Proof.Machine.execFmaxImm r1 imm s
  | .fmaxReg r1 r2 => Sys2Proof.Machine.execFmaxReg r1 r2 s
  | .fabs r1 => Sys2Proof.Machine.execFabs r1 s
  | .flr r1 => Sys2Proof.Machine.execFlr r1 s
  | .ceil r1 => Sys2Proof.Machine.execCeil r1 s
  | .round r1 => Sys2Proof.Machine.execRound r1 s
  | .sin r1 => Sys2Proof.Machine.execSin r1 s
  | .acos r1 => Sys2Proof.Machine.execAcos r1 s
  | .atan2 r1 r2 => Sys2Proof.Machine.execAtan2 r1 r2 s
  | .log r1 => Sys2Proof.Machine.execLog r1 s
  | .pow r1 r2 => Sys2Proof.Machine.execPow r1 r2 s

end Sys2Proof.Machine
end

