-- ==== Sys2Proof/WellFormed.lean ====
section
/-! DEFINITION. Which terms of `Instr` stand for an instruction of the machine. Registers, modes and immediates are
within bounds by their types; a port number is a number that must fit its field (spec/30_encoding.md R81). -/

namespace Sys2Proof

/-- Port numbers run from 0 to 16383: the field is 14 bits wide (R81; entry 2). -/
def portLimit : Nat := 16384

/-- The one check on an instruction term: a port number fits the port field (R81, R93). -/
def Instr.wellFormed : Instr → Bool
  | .inPort _ p => p < portLimit
  | .outImm p _ => p < portLimit
  | .outReg p _ => p < portLimit
  | .hlt | .wait | .jmpImm _ | .jmpReg _ | .callImm _ | .callReg _ | .ret | .jtImm _ _ | .jtReg _ _ | .jfImm _ _
  | .jfReg _ _ | .ieqImm _ _ | .ieqReg _ _ | .ineImm _ _ | .ineReg _ _ | .igtImm _ _ | .igtReg _ _ | .igeImm _ _
  | .igeReg _ _ | .iltImm _ _ | .iltReg _ _ | .ileImm _ _ | .ileReg _ _ | .feqImm _ _ | .feqReg _ _
  | .fneImm _ _ | .fneReg _ _ | .fgtImm _ _ | .fgtReg _ _ | .fgeImm _ _ | .fgeReg _ _ | .fltImm _ _
  | .fltReg _ _ | .fleImm _ _ | .fleReg _ _ | .movRegImm _ _ | .movRegReg _ _ | .movRegMemImm _ _
  | .movRegMemReg _ _ | .movRegMemRegImm _ _ _ | .movMemImmReg _ _ | .movMemRegReg _ _ | .movMemRegImmReg _ _ _
  | .leaReg _ _ | .leaRegImm _ _ _ | .push _ | .pop _ | .movs | .sets | .cmps _ | .cif _ | .cfi _ | .cib _
  | .cfb _ | .notReg _ | .andImm _ _ | .andReg _ _ | .orImm _ _ | .orReg _ _ | .xorImm _ _ | .xorReg _ _
  | .bnot _ | .shlImm _ _ | .shlReg _ _ | .iaddImm _ _ | .iaddReg _ _ | .isubImm _ _ | .isubReg _ _
  | .imulImm _ _ | .imulReg _ _ | .idivImm _ _ | .idivReg _ _ | .imodImm _ _ | .imodReg _ _ | .isgn _
  | .iminImm _ _ | .iminReg _ _ | .imaxImm _ _ | .imaxReg _ _ | .iabs _ | .faddImm _ _ | .faddReg _ _
  | .fsubImm _ _ | .fsubReg _ _ | .fmulImm _ _ | .fmulReg _ _ | .fdivImm _ _ | .fdivReg _ _ | .fmodImm _ _
  | .fmodReg _ _ | .fsgn _ | .fminImm _ _ | .fminReg _ _ | .fmaxImm _ _ | .fmaxReg _ _ | .fabs _ | .flr _
  | .ceil _ | .round _ | .sin _ | .acos _ | .atan2 _ _ | .log _ | .pow _ _ => true

end Sys2Proof
end

