-- ==== Sys2Proof/Decode.lean ====
section
/-! DEFINITION. Instruction words to instructions and back (spec/30_encoding.md R80 to R97): the field layout, the
opcode numbering, the decoder (total, rejecting by name) and the encoder. -/

namespace Sys2Proof

/-- A field of the instruction word: its lowest bit and its width (R81, R82). -/
structure Field where
  lo : Nat
  width : Nat
deriving DecidableEq, Repr

/-- The six fields of the instruction word (R81). -/
structure FieldLayout where
  opcode : Field
  useimm : Field
  r1 : Field
  r2 : Field
  mode : Field
  port : Field
deriving DecidableEq, Repr

/-- `FIELD_LAYOUT` (R82): opcode 31:26, useimm 25, r1 24:21, r2 20:17, mode 16:14, port 13:0.
PRESUMED, unsafe: the figure is lost and the spec takes the positions, and the port's width, from outside the
sources (D1, D29; entries 1, 2). Only the encoding depends on it, no meaning does. -/
def fieldLayout : FieldLayout :=
  { opcode := ⟨26, 6⟩, useimm := ⟨25, 1⟩, r1 := ⟨21, 4⟩, r2 := ⟨17, 4⟩, mode := ⟨14, 3⟩, port := ⟨0, 14⟩ }

/-- The value of a field of a word, read as an unsigned integer (R81). -/
def Field.get (f : Field) (w : Word) : Nat := w.toNat / 2 ^ f.lo % 2 ^ f.width

/-- A field's value moved to its place in the word (R82). -/
def Field.put (f : Field) (v : Nat) : Nat := v * 2 ^ f.lo

/-- The "Use immediate value" bit of a word, the one bit that tells its length (R84, R97). -/
def usesImmediate (w : Word) : Bool := fieldLayout.useimm.get w == 1

/-- Register 1 of a word (R81). -/
def register1 (w : Word) : Reg := Fin.ofNat 16 (fieldLayout.r1.get w)

/-- Register 2 of a word (R81). -/
def register2 (w : Word) : Reg := Fin.ofNat 16 (fieldLayout.r2.get w)

/-- The addressing mode of a word (R81). -/
def addressingMode (w : Word) : Nat := fieldLayout.mode.get w

/-- The port number of a word (R81). -/
def portNumber (w : Word) : Nat := fieldLayout.port.get w

/-- The opcodes in the order of their numbers, sixteen at a time (R90). -/
def opcodes0 : List Opcode :=
  [.hlt, .wait, .jmp, .call, .ret, .jt, .jf, .ieq, .ine, .igt, .ige, .ilt, .ile, .feq, .fne, .fgt]
def opcodes16 : List Opcode :=
  [.fge, .flt, .fle, .mov, .lea, .push, .pop, .inp, .out, .movs, .sets, .cmps, .cif, .cfi, .cib, .cfb]
def opcodes32 : List Opcode :=
  [.bitNot, .bitAnd, .bitOr, .bitXor, .bnot, .shl, .iadd, .isub, .imul, .idiv, .imod, .isgn, .imin, .imax, .iabs, .fadd]
def opcodes48 : List Opcode :=
  [.fsub, .fmul, .fdiv, .fmod, .fsgn, .fmin, .fmax, .fabs, .flr, .ceil, .round, .sin, .acos, .atan2, .log, .pow]

/-- The opcodes in the order of their numbers 0 to 63 (R90). -/
def opcodeList : List Opcode := opcodes0 ++ opcodes16 ++ opcodes32 ++ opcodes48

/-- The opcode of a word. Every value of the 6-bit field is an instruction (R90, R96). -/
def opcodeOf (w : Word) : Opcode := opcodeList.getD (fieldLayout.opcode.get w) .hlt

/-- The number of an opcode (R90). -/
def opcodeNumber : Opcode → Nat
  | .hlt => 0 | .wait => 1 | .jmp => 2 | .call => 3
  | .ret => 4 | .jt => 5 | .jf => 6 | .ieq => 7
  | .ine => 8 | .igt => 9 | .ige => 10 | .ilt => 11
  | .ile => 12 | .feq => 13 | .fne => 14 | .fgt => 15
  | .fge => 16 | .flt => 17 | .fle => 18 | .mov => 19
  | .lea => 20 | .push => 21 | .pop => 22 | .inp => 23
  | .out => 24 | .movs => 25 | .sets => 26 | .cmps => 27
  | .cif => 28 | .cfi => 29 | .cib => 30 | .cfb => 31
  | .bitNot => 32 | .bitAnd => 33 | .bitOr => 34 | .bitXor => 35
  | .bnot => 36 | .shl => 37 | .iadd => 38 | .isub => 39
  | .imul => 40 | .idiv => 41 | .imod => 42 | .isgn => 43
  | .imin => 44 | .imax => 45 | .iabs => 46 | .fadd => 47
  | .fsub => 48 | .fmul => 49 | .fdiv => 50 | .fmod => 51
  | .fsgn => 52 | .fmin => 53 | .fmax => 54 | .fabs => 55
  | .flr => 56 | .ceil => 57 | .round => 58 | .sin => 59
  | .acos => 60 | .atan2 => 61 | .log => 62 | .pow => 63

/-- Why a decoder turns words away. The first two are the ill-formed words of R94; the last two are lists too short
to hold the instruction, which the machine's own fetch never makes. -/
inductive Reject where
  /-- A one-variant opcode with the "Use immediate value" bit set (R94, first point). -/
  | immediateOnOneVariant (op : Opcode)
  /-- `MOV` whose "Use immediate value" bit is not the one its addressing mode needs (R94, second point). -/
  | movModeMismatch (mode : Nat) (useimm : Bool)
  /-- No word to decode. -/
  | noInstructionWord
  /-- The immediate word that the first word asks for is missing. -/
  | noImmediateWord
deriving DecidableEq, Repr

/-- The eight variants of `MOV`, chosen by the addressing mode (R92). -/
def decodeMov (mode : Nat) (useimm : Bool) (r1 r2 : Reg) (imm : Word) : Except Reject Instr :=
  match mode, useimm with
  | 0, true => .ok (.movRegImm r1 imm)
  | 1, false => .ok (.movRegReg r1 r2)
  | 2, true => .ok (.movRegMemImm r1 imm)
  | 3, false => .ok (.movRegMemReg r1 r2)
  | 4, true => .ok (.movRegMemRegImm r1 r2 imm)
  | 5, true => .ok (.movMemImmReg r2 imm)
  | 6, false => .ok (.movMemRegReg r1 r2)
  | 7, true => .ok (.movMemRegImmReg r1 r2 imm)
  | m, u => .error (.movModeMismatch m u)

/-- A one-variant opcode: its words have the "Use immediate value" bit clear (R91, R94). -/
def oneVariant (op : Opcode) (useimm : Bool) (i : Instr) : Except Reject Instr :=
  if useimm then .error (.immediateOnOneVariant op) else .ok i

/-- A two-variant opcode: the bit chooses the variant with the immediate (R91). -/
def twoVariants (useimm : Bool) (withImm withReg : Instr) : Except Reject Instr :=
  .ok (if useimm then withImm else withReg)

/-- The instruction of a word's opcode and "Use immediate value" bit (R89, R91, R93); a field the variant does not
use is not looked at (R83). -/
def decodeVariant (op : Opcode) (useimm : Bool) (r1 r2 : Reg) (mode port : Nat) (imm : Word) :
    Except Reject Instr :=
  match op with
  | .hlt => oneVariant op useimm .hlt
  | .wait => oneVariant op useimm .wait
  | .jmp => twoVariants useimm (.jmpImm imm) (.jmpReg r1)
  | .call => twoVariants useimm (.callImm imm) (.callReg r1)
  | .ret => oneVariant op useimm .ret
  | .jt => twoVariants useimm (.jtImm r1 imm) (.jtReg r1 r2)
  | .jf => twoVariants useimm (.jfImm r1 imm) (.jfReg r1 r2)
  | .ieq => twoVariants useimm (.ieqImm r1 imm) (.ieqReg r1 r2)
  | .ine => twoVariants useimm (.ineImm r1 imm) (.ineReg r1 r2)
  | .igt => twoVariants useimm (.igtImm r1 imm) (.igtReg r1 r2)
  | .ige => twoVariants useimm (.igeImm r1 imm) (.igeReg r1 r2)
  | .ilt => twoVariants useimm (.iltImm r1 imm) (.iltReg r1 r2)
  | .ile => twoVariants useimm (.ileImm r1 imm) (.ileReg r1 r2)
  | .feq => twoVariants useimm (.feqImm r1 imm) (.feqReg r1 r2)
  | .fne => twoVariants useimm (.fneImm r1 imm) (.fneReg r1 r2)
  | .fgt => twoVariants useimm (.fgtImm r1 imm) (.fgtReg r1 r2)
  | .fge => twoVariants useimm (.fgeImm r1 imm) (.fgeReg r1 r2)
  | .flt => twoVariants useimm (.fltImm r1 imm) (.fltReg r1 r2)
  | .fle => twoVariants useimm (.fleImm r1 imm) (.fleReg r1 r2)
  | .mov => decodeMov mode useimm r1 r2 imm
  | .lea => twoVariants useimm (.leaRegImm r1 r2 imm) (.leaReg r1 r2)
  | .push => oneVariant op useimm (.push r1)
  | .pop => oneVariant op useimm (.pop r1)
  | .inp => oneVariant op useimm (.inPort r1 port)
  | .out => twoVariants useimm (.outImm port imm) (.outReg port r1)
  | .movs => oneVariant op useimm .movs
  | .sets => oneVariant op useimm .sets
  | .cmps => oneVariant op useimm (.cmps r1)
  | .cif => oneVariant op useimm (.cif r1)
  | .cfi => oneVariant op useimm (.cfi r1)
  | .cib => oneVariant op useimm (.cib r1)
  | .cfb => oneVariant op useimm (.cfb r1)
  | .bitNot => oneVariant op useimm (.notReg r1)
  | .bitAnd => twoVariants useimm (.andImm r1 imm) (.andReg r1 r2)
  | .bitOr => twoVariants useimm (.orImm r1 imm) (.orReg r1 r2)
  | .bitXor => twoVariants useimm (.xorImm r1 imm) (.xorReg r1 r2)
  | .bnot => oneVariant op useimm (.bnot r1)
  | .shl => twoVariants useimm (.shlImm r1 imm) (.shlReg r1 r2)
  | .iadd => twoVariants useimm (.iaddImm r1 imm) (.iaddReg r1 r2)
  | .isub => twoVariants useimm (.isubImm r1 imm) (.isubReg r1 r2)
  | .imul => twoVariants useimm (.imulImm r1 imm) (.imulReg r1 r2)
  | .idiv => twoVariants useimm (.idivImm r1 imm) (.idivReg r1 r2)
  | .imod => twoVariants useimm (.imodImm r1 imm) (.imodReg r1 r2)
  | .isgn => oneVariant op useimm (.isgn r1)
  | .imin => twoVariants useimm (.iminImm r1 imm) (.iminReg r1 r2)
  | .imax => twoVariants useimm (.imaxImm r1 imm) (.imaxReg r1 r2)
  | .iabs => oneVariant op useimm (.iabs r1)
  | .fadd => twoVariants useimm (.faddImm r1 imm) (.faddReg r1 r2)
  | .fsub => twoVariants useimm (.fsubImm r1 imm) (.fsubReg r1 r2)
  | .fmul => twoVariants useimm (.fmulImm r1 imm) (.fmulReg r1 r2)
  | .fdiv => twoVariants useimm (.fdivImm r1 imm) (.fdivReg r1 r2)
  | .fmod => twoVariants useimm (.fmodImm r1 imm) (.fmodReg r1 r2)
  | .fsgn => oneVariant op useimm (.fsgn r1)
  | .fmin => twoVariants useimm (.fminImm r1 imm) (.fminReg r1 r2)
  | .fmax => twoVariants useimm (.fmaxImm r1 imm) (.fmaxReg r1 r2)
  | .fabs => oneVariant op useimm (.fabs r1)
  | .flr => oneVariant op useimm (.flr r1)
  | .ceil => oneVariant op useimm (.ceil r1)
  | .round => oneVariant op useimm (.round r1)
  | .sin => oneVariant op useimm (.sin r1)
  | .acos => oneVariant op useimm (.acos r1)
  | .atan2 => oneVariant op useimm (.atan2 r1 r2)
  | .log => oneVariant op useimm (.log r1)
  | .pow => oneVariant op useimm (.pow r1 r2)

/-- The instruction of a first word and, where it uses one, its immediate word (R82 to R84, R89, R93). -/
def decodeWord (w imm : Word) : Except Reject Instr :=
  decodeVariant (opcodeOf w) (usesImmediate w) (register1 w) (register2 w) (addressingMode w) (portNumber w) imm

/-- Decodes the instruction at the head of a list of words and returns the words after it (R80, R84, R97). -/
def decode : List Word → Except Reject (Instr × List Word)
  | [] => .error .noInstructionWord
  | w :: rest =>
    if usesImmediate w then
      match rest with
      | [] => .error .noImmediateWord
      | imm :: rest => (decodeWord w imm).map (·, rest)
    else (decodeWord w 0).map (·, rest)

/-- An instruction word from its six fields (R82, the formula of spec/95_test_vectors.md). -/
def packWord (op : Opcode) (useimm r1 r2 mode port : Nat) : Word :=
  BitVec.ofNat 32
    (fieldLayout.opcode.put (opcodeNumber op) + fieldLayout.useimm.put useimm + fieldLayout.r1.put r1 +
      fieldLayout.r2.put r2 + fieldLayout.mode.put mode + fieldLayout.port.put port)

/-- The words of an instruction, its unused fields zero (R83, R92, R93). -/
def encode : Instr → List Word
  | .hlt => [packWord .hlt 0 0 0 0 0]
  | .wait => [packWord .wait 0 0 0 0 0]
  | .jmpImm imm => [packWord .jmp 1 0 0 0 0, imm]
  | .jmpReg r1 => [packWord .jmp 0 r1 0 0 0]
  | .callImm imm => [packWord .call 1 0 0 0 0, imm]
  | .callReg r1 => [packWord .call 0 r1 0 0 0]
  | .ret => [packWord .ret 0 0 0 0 0]
  | .jtImm r1 imm => [packWord .jt 1 r1 0 0 0, imm]
  | .jtReg r1 r2 => [packWord .jt 0 r1 r2 0 0]
  | .jfImm r1 imm => [packWord .jf 1 r1 0 0 0, imm]
  | .jfReg r1 r2 => [packWord .jf 0 r1 r2 0 0]
  | .ieqImm r1 imm => [packWord .ieq 1 r1 0 0 0, imm]
  | .ieqReg r1 r2 => [packWord .ieq 0 r1 r2 0 0]
  | .ineImm r1 imm => [packWord .ine 1 r1 0 0 0, imm]
  | .ineReg r1 r2 => [packWord .ine 0 r1 r2 0 0]
  | .igtImm r1 imm => [packWord .igt 1 r1 0 0 0, imm]
  | .igtReg r1 r2 => [packWord .igt 0 r1 r2 0 0]
  | .igeImm r1 imm => [packWord .ige 1 r1 0 0 0, imm]
  | .igeReg r1 r2 => [packWord .ige 0 r1 r2 0 0]
  | .iltImm r1 imm => [packWord .ilt 1 r1 0 0 0, imm]
  | .iltReg r1 r2 => [packWord .ilt 0 r1 r2 0 0]
  | .ileImm r1 imm => [packWord .ile 1 r1 0 0 0, imm]
  | .ileReg r1 r2 => [packWord .ile 0 r1 r2 0 0]
  | .feqImm r1 imm => [packWord .feq 1 r1 0 0 0, imm]
  | .feqReg r1 r2 => [packWord .feq 0 r1 r2 0 0]
  | .fneImm r1 imm => [packWord .fne 1 r1 0 0 0, imm]
  | .fneReg r1 r2 => [packWord .fne 0 r1 r2 0 0]
  | .fgtImm r1 imm => [packWord .fgt 1 r1 0 0 0, imm]
  | .fgtReg r1 r2 => [packWord .fgt 0 r1 r2 0 0]
  | .fgeImm r1 imm => [packWord .fge 1 r1 0 0 0, imm]
  | .fgeReg r1 r2 => [packWord .fge 0 r1 r2 0 0]
  | .fltImm r1 imm => [packWord .flt 1 r1 0 0 0, imm]
  | .fltReg r1 r2 => [packWord .flt 0 r1 r2 0 0]
  | .fleImm r1 imm => [packWord .fle 1 r1 0 0 0, imm]
  | .fleReg r1 r2 => [packWord .fle 0 r1 r2 0 0]
  | .movRegImm r1 imm => [packWord .mov 1 r1 0 0 0, imm]
  | .movRegReg r1 r2 => [packWord .mov 0 r1 r2 1 0]
  | .movRegMemImm r1 imm => [packWord .mov 1 r1 0 2 0, imm]
  | .movRegMemReg r1 r2 => [packWord .mov 0 r1 r2 3 0]
  | .movRegMemRegImm r1 r2 imm => [packWord .mov 1 r1 r2 4 0, imm]
  | .movMemImmReg r2 imm => [packWord .mov 1 0 r2 5 0, imm]
  | .movMemRegReg r1 r2 => [packWord .mov 0 r1 r2 6 0]
  | .movMemRegImmReg r1 r2 imm => [packWord .mov 1 r1 r2 7 0, imm]
  | .leaReg r1 r2 => [packWord .lea 0 r1 r2 0 0]
  | .leaRegImm r1 r2 imm => [packWord .lea 1 r1 r2 0 0, imm]
  | .push r1 => [packWord .push 0 r1 0 0 0]
  | .pop r1 => [packWord .pop 0 r1 0 0 0]
  | .inPort r1 port => [packWord .inp 0 r1 0 0 port]
  | .outImm port imm => [packWord .out 1 0 0 0 port, imm]
  | .outReg port r1 => [packWord .out 0 r1 0 0 port]
  | .movs => [packWord .movs 0 0 0 0 0]
  | .sets => [packWord .sets 0 0 0 0 0]
  | .cmps r1 => [packWord .cmps 0 r1 0 0 0]
  | .cif r1 => [packWord .cif 0 r1 0 0 0]
  | .cfi r1 => [packWord .cfi 0 r1 0 0 0]
  | .cib r1 => [packWord .cib 0 r1 0 0 0]
  | .cfb r1 => [packWord .cfb 0 r1 0 0 0]
  | .notReg r1 => [packWord .bitNot 0 r1 0 0 0]
  | .andImm r1 imm => [packWord .bitAnd 1 r1 0 0 0, imm]
  | .andReg r1 r2 => [packWord .bitAnd 0 r1 r2 0 0]
  | .orImm r1 imm => [packWord .bitOr 1 r1 0 0 0, imm]
  | .orReg r1 r2 => [packWord .bitOr 0 r1 r2 0 0]
  | .xorImm r1 imm => [packWord .bitXor 1 r1 0 0 0, imm]
  | .xorReg r1 r2 => [packWord .bitXor 0 r1 r2 0 0]
  | .bnot r1 => [packWord .bnot 0 r1 0 0 0]
  | .shlImm r1 imm => [packWord .shl 1 r1 0 0 0, imm]
  | .shlReg r1 r2 => [packWord .shl 0 r1 r2 0 0]
  | .iaddImm r1 imm => [packWord .iadd 1 r1 0 0 0, imm]
  | .iaddReg r1 r2 => [packWord .iadd 0 r1 r2 0 0]
  | .isubImm r1 imm => [packWord .isub 1 r1 0 0 0, imm]
  | .isubReg r1 r2 => [packWord .isub 0 r1 r2 0 0]
  | .imulImm r1 imm => [packWord .imul 1 r1 0 0 0, imm]
  | .imulReg r1 r2 => [packWord .imul 0 r1 r2 0 0]
  | .idivImm r1 imm => [packWord .idiv 1 r1 0 0 0, imm]
  | .idivReg r1 r2 => [packWord .idiv 0 r1 r2 0 0]
  | .imodImm r1 imm => [packWord .imod 1 r1 0 0 0, imm]
  | .imodReg r1 r2 => [packWord .imod 0 r1 r2 0 0]
  | .isgn r1 => [packWord .isgn 0 r1 0 0 0]
  | .iminImm r1 imm => [packWord .imin 1 r1 0 0 0, imm]
  | .iminReg r1 r2 => [packWord .imin 0 r1 r2 0 0]
  | .imaxImm r1 imm => [packWord .imax 1 r1 0 0 0, imm]
  | .imaxReg r1 r2 => [packWord .imax 0 r1 r2 0 0]
  | .iabs r1 => [packWord .iabs 0 r1 0 0 0]
  | .faddImm r1 imm => [packWord .fadd 1 r1 0 0 0, imm]
  | .faddReg r1 r2 => [packWord .fadd 0 r1 r2 0 0]
  | .fsubImm r1 imm => [packWord .fsub 1 r1 0 0 0, imm]
  | .fsubReg r1 r2 => [packWord .fsub 0 r1 r2 0 0]
  | .fmulImm r1 imm => [packWord .fmul 1 r1 0 0 0, imm]
  | .fmulReg r1 r2 => [packWord .fmul 0 r1 r2 0 0]
  | .fdivImm r1 imm => [packWord .fdiv 1 r1 0 0 0, imm]
  | .fdivReg r1 r2 => [packWord .fdiv 0 r1 r2 0 0]
  | .fmodImm r1 imm => [packWord .fmod 1 r1 0 0 0, imm]
  | .fmodReg r1 r2 => [packWord .fmod 0 r1 r2 0 0]
  | .fsgn r1 => [packWord .fsgn 0 r1 0 0 0]
  | .fminImm r1 imm => [packWord .fmin 1 r1 0 0 0, imm]
  | .fminReg r1 r2 => [packWord .fmin 0 r1 r2 0 0]
  | .fmaxImm r1 imm => [packWord .fmax 1 r1 0 0 0, imm]
  | .fmaxReg r1 r2 => [packWord .fmax 0 r1 r2 0 0]
  | .fabs r1 => [packWord .fabs 0 r1 0 0 0]
  | .flr r1 => [packWord .flr 0 r1 0 0 0]
  | .ceil r1 => [packWord .ceil 0 r1 0 0 0]
  | .round r1 => [packWord .round 0 r1 0 0 0]
  | .sin r1 => [packWord .sin 0 r1 0 0 0]
  | .acos r1 => [packWord .acos 0 r1 0 0 0]
  | .atan2 r1 r2 => [packWord .atan2 0 r1 r2 0 0]
  | .log r1 => [packWord .log 0 r1 0 0 0]
  | .pow r1 r2 => [packWord .pow 0 r1 r2 0 0]

/-- The instruction this decoder reads from the bits `w` of an instruction of which `nbits` are given, bit 0 the
least significant bit of the first word and bits 63:32 the immediate word; bits from `nbits` up are 0. -/
def decodeTableWord (nbits w : Nat) : Option Instr :=
  let bits := w % 2 ^ nbits
  match decode [BitVec.ofNat 32 bits, BitVec.ofNat 32 (bits / 2 ^ 32)] with
  | .ok (i, _) => some i
  | .error _ => none

end Sys2Proof
end

