-- ==== Sys2Proof/Machine/Fetch.lean ====
section
/-! DEFINITION. The fetch steps of the processing cycle (spec/30_encoding.md R85 to R88) and the placing of an
instruction where they read. -/

namespace Sys2Proof.Machine

/-- Step (1) and (2): `IR <- MemRead(pc, 1); pc <- pc + 1`. A refused read leaves `IR` and `pc` as they are (R86). -/
def fetchInstruction (s : State) (rest : State → Result) : Result :=
  memRead s.pc s fun w s => rest { s with ir := w, pc := s.pc + 1 }

/-- Step (4): `if useimm = 1 then Imm <- MemRead(pc, 1); pc <- pc + 1`. It is done by the bit alone, for an ill-formed
word too (R87, R95); without it `Imm` keeps its old value (spec/10_state.md R28). -/
def fetchImmediate (s : State) (rest : State → Result) : Result :=
  if usesImmediate s.ir then memRead s.pc s fun v s => rest { s with imm := v, pc := s.pc + 1 } else rest s

/-- The fetch steps, then the execute step `rest` (R85). -/
def fetch (s : State) (rest : State → Result) : Result :=
  fetchInstruction s fun s => fetchImmediate s rest

/-- The instruction that the execute step finds in `IR` and `Imm` (R88, R89). -/
def State.fetched (s : State) : Except Reject Instr := decodeWord s.ir s.imm

/-- A word and the one after it put where the next cycle signal fetches, the flags and the schedule set so that the
next step is that cycle (entry 28). -/
def State.withWordsAtPc (s : State) (first second : Word) : State :=
  let s := (s.poke s.pc first).poke (s.pc + 1) second
  { s with halt := false, wait := false, signals := [] }

end Sys2Proof.Machine
end

