-- ==== Sys2Proof/Machine/Step.lean ====
section
/-! DEFINITION. The three signal responses (spec/60_exceptions.md R268 to R271) and the step. -/

namespace Sys2Proof.Machine

/-- The execute step: the decoded instruction's meaning; an ill-formed word is refused, with the internal registers
as the fetch steps left them (spec/30_encoding.md R89, R95, D12; entry 26). -/
def execute (s : State) : Result :=
  match s.fetched with
  | .ok i => exec i s
  | .error _ => .refused (.illFormed s.pc s.ir s.imm)

/-- The response to the cycle signal (R271): nothing while a control flag is set, else one processing cycle. -/
def cycleSignal (s : State) : Result := if s.stopped then .next s else fetch s execute

/-- The response to a control signal (R269 to R271). Each is taken whole before the next (R268). -/
def respond : Signal → State → Result
  | .reset, s => .next s.resetSignal
  | .frame, s => .next s.frameSignal
  | .cycle, s => cycleSignal s

/-- The signal that comes next: the first of the schedule, a cycle signal where the schedule is used up (entry 24). -/
def State.nextSignal (s : State) : Signal := s.signals.headD .cycle

/-- One control signal, taken off the schedule, recorded and answered (spec/70_reset_and_hazards.md R290). -/
def step (s : State) : Host.Outcome State Fault Refusal :=
  respond s.nextSignal ({ s with signals := s.signals.tail }.record (.signal s.nextSignal))

/-- `s` with the instruction whose bits are `w` (of which `nbits` are given, bits 63:32 its immediate word) stored at
`pc` and the word after it, so that the next step fetches and runs it. -/
def State.withFetchWord (s : State) (nbits w : Nat) : State :=
  s.withWordsAtPc (BitVec.ofNat 32 (w % 2 ^ nbits)) (BitVec.ofNat 32 (w % 2 ^ nbits / 2 ^ 32))

end Sys2Proof.Machine
end

