-- ==== Sys2Proof/Safety.lean ====
section
/-! DEFINITION. The terms the statements use: what an instruction writes and what it leaves, what a hardware error
leaves, which words are ill formed, and the value of a float. Each is written from the spec and not from the meanings
it is used about. -/

namespace Sys2Proof.Machine

/-! ### Frames -/

/-- The environment's side is untouched: no request was made and no signal taken. -/
def NoRequest (s t : State) : Prop :=
  t.signals = s.signals ∧ t.answers = s.answers ∧ t.history = s.history

/-- Everything the CPU has but the general registers and `pc` is as before. -/
def SameInternals (s t : State) : Prop :=
  t.ir = s.ir ∧ t.imm = s.imm ∧ t.halt = s.halt ∧ t.wait = s.wait

/-- Every word of memory reads as before. -/
def SameMemory (s t : State) : Prop := ∀ a, t.peek a = s.peek a

/-- Every word of memory but the one at `a` reads as before. -/
def SameMemoryBut (a : Word) (s t : State) : Prop := ∀ b, b ≠ a → t.peek b = s.peek b

/-- Register `r` holds `v`; every other register, `pc`, the internal registers, the flags, memory and the environment
are as before. -/
def RegWritten (r : Reg) (v : Word) (s t : State) : Prop :=
  t.reg r = v ∧ (∀ q, q ≠ r → t.reg q = s.reg q) ∧ t.pc = s.pc ∧ SameInternals s t ∧ SameMemory s t ∧ NoRequest s t

/-- `pc` is the target; the registers, the internal registers, the flags, memory and the environment are as before. -/
def Jumped (target : Word) (s t : State) : Prop :=
  t.pc = target ∧ (∀ q, t.reg q = s.reg q) ∧ SameInternals s t ∧ SameMemory s t ∧ NoRequest s t

/-- The instruction completes, and `v` is written to register `r` and nothing else changes. -/
def Writes (i : Instr) (s : State) (r : Reg) (v : Word) : Prop := ∃ t, exec i s = .next t ∧ RegWritten r v s t

/-- The instruction completes, and writes 1 to register `r` if `p` holds and 0 if not (spec/41_comparisons.md R130). -/
def WritesTruth (i : Instr) (s : State) (r : Reg) (p : Prop) : Prop :=
  (p → Writes i s r 1) ∧ (¬ p → Writes i s r 0)

/-- The instruction completes with a state that has the property. -/
def Completes (i : Instr) (s : State) (p : State → Prop) : Prop := ∃ t, exec i s = .next t ∧ p t

/-- One request was put on a bus, and its answer was the given one; no signal was taken
(spec/20_memory.md R69). -/
def Asked (q : Request) (answer : Option Word) (s t : State) : Prop :=
  t.signals = s.signals ∧ t.history = .request q answer :: s.history

/-- Every register but those listed is as before. -/
def SameRegsBut (rs : List Reg) (s t : State) : Prop := ∀ q, q ∉ rs → t.reg q = s.reg q

/-- The word at `a` was asked for and is `w`; memory is as before (R54). -/
def LoadedWord (a w : Word) (s t : State) : Prop := SameMemory s t ∧ Asked (.memRead a) (some w) s t

/-- The word `v` was stored at `a`, and no other word of memory changed (R55). A word that was known (every RAM word
is) now reads as `v`; a word outside RAM that only the environment knows still is the environment's to answer. -/
def StoredWord (a v : Word) (s t : State) : Prop :=
  SameMemoryBut a s t ∧ t.peek a = (s.peek a).map (fun _ => v) ∧ ∃ x, Asked (.memWrite a v) (some x) s t

/-! ### The hardware error (spec/60_exceptions.md R262) -/

/-- The number of an error's code (R251 to R261). -/
def errorNumber : HardwareError → Nat
  | .invalidMemoryRead => 0 | .invalidMemoryWrite => 1 | .invalidPortRead => 2 | .invalidPortWrite => 3
  | .stackOverflow => 4 | .stackUnderflow => 5 | .divisionError => 6 | .arcCosineError => 7
  | .arcTangent2Error => 8 | .logarithmError => 9 | .powerError => 10

/-- The actions (1) to (6) of the response, from the state `s` at the error: the code in R0, `pc` in R1, `IR` in R2,
`Imm` in R3, BP and SP at the last RAM address, `pc` at the handler; R4 to R13, `IR`, `Imm` and the flags are as
before. -/
def ErrorTaken (e : HardwareError) (s t : State) : Prop :=
  t.reg 0 = BitVec.ofNat 32 (errorNumber e) ∧ t.reg 1 = s.pc ∧ t.reg 2 = s.ir ∧ t.reg 3 = s.imm ∧
  t.reg 14 = 0x003FFFFF ∧ t.reg 15 = 0x003FFFFF ∧ t.pc = 0x10000000 ∧
  (∀ q : Reg, 4 ≤ q.val → q.val ≤ 13 → t.reg q = s.reg q) ∧ SameInternals s t

/-- The instruction takes the error from the state it runs in, with nothing changed before and no request made. -/
def Raises (i : Instr) (s : State) (e : HardwareError) : Prop :=
  ∃ t, exec i s = .next t ∧ ErrorTaken e s t ∧ SameMemory s t ∧ NoRequest s t

/-! ### What is stored where -/

/-- The address an instruction stores to, from the state it runs in, and `none` for one that stores nothing
(spec/20_memory.md R55, spec/42_data_movement.md R150). -/
def storeAddress (i : Instr) (s : State) : Option Word :=
  match i with
  | .movMemImmReg _ imm => some imm
  | .movMemRegReg r1 _ => some (s.reg r1)
  | .movMemRegImmReg r1 _ imm => some (s.sumAddress r1 imm)
  | .push _ | .callImm _ | .callReg _ => some (s.reg SP)
  | .movs | .sets => some (s.reg DR)
  | .hlt | .wait | .jmpImm _ | .jmpReg _ | .ret | .jtImm _ _ | .jtReg _ _ | .jfImm _ _ | .jfReg _ _
  | .ieqImm _ _ | .ieqReg _ _ | .ineImm _ _ | .ineReg _ _ | .igtImm _ _ | .igtReg _ _ | .igeImm _ _
  | .igeReg _ _ | .iltImm _ _ | .iltReg _ _ | .ileImm _ _ | .ileReg _ _ | .feqImm _ _ | .feqReg _ _
  | .fneImm _ _ | .fneReg _ _ | .fgtImm _ _ | .fgtReg _ _ | .fgeImm _ _ | .fgeReg _ _ | .fltImm _ _
  | .fltReg _ _ | .fleImm _ _ | .fleReg _ _ | .movRegImm _ _ | .movRegReg _ _ | .movRegMemImm _ _
  | .movRegMemReg _ _ | .movRegMemRegImm _ _ _ | .leaReg _ _ | .leaRegImm _ _ _ | .pop _ | .inPort _ _
  | .outImm _ _ | .outReg _ _ | .cmps _ | .cif _ | .cfi _ | .cib _ | .cfb _ | .notReg _ | .andImm _ _
  | .andReg _ _ | .orImm _ _ | .orReg _ _ | .xorImm _ _ | .xorReg _ _ | .bnot _ | .shlImm _ _ | .shlReg _ _
  | .iaddImm _ _ | .iaddReg _ _ | .isubImm _ _ | .isubReg _ _ | .imulImm _ _ | .imulReg _ _ | .idivImm _ _
  | .idivReg _ _ | .imodImm _ _ | .imodReg _ _ | .isgn _ | .iminImm _ _ | .iminReg _ _ | .imaxImm _ _
  | .imaxReg _ _ | .iabs _ | .faddImm _ _ | .faddReg _ _ | .fsubImm _ _ | .fsubReg _ _ | .fmulImm _ _
  | .fmulReg _ _ | .fdivImm _ _ | .fdivReg _ _ | .fmodImm _ _ | .fmodReg _ _ | .fsgn _ | .fminImm _ _
  | .fminReg _ _ | .fmaxImm _ _ | .fmaxReg _ _ | .fabs _ | .flr _ | .ceil _ | .round _ | .sin _ | .acos _
  | .atan2 _ _ | .log _ | .pow _ _ => none

/-! ### Which requests are made -/

/-- A request with its answer. -/
abbrev Exchange := Request × Option Word

/-- A read of memory and the answer to it (R54). -/
def readExchange (a : Word) (s : State) : Exchange := (.memRead a, (s.busRead a).1)

/-- A write to memory and the answer to it (R55): a RAM address takes the word (R56), any other is the environment's
to answer. -/
def writeExchange (a v : Word) (s : State) : Exchange :=
  (.memWrite a v, if a.toNat ≤ 0x003FFFFF then some v else s.answerTo (.memWrite a v))

/-- A request on the control bus and the answer to it (R60). -/
def portExchange (q : Request) (s : State) : Exchange := (q, s.answerTo q)

/-- The read of a pop, unless SP is above 0x003FFFFF after the increment (R58). -/
def popExchange (s : State) : List Exchange :=
  if (s.reg SP + 1).toInt ≤ 0x003FFFFF then [readExchange (s.reg SP + 1) s] else []

/-- The requests an instruction makes in its execute step, first to come first, from the state it runs in
(R54, R55, R57, R58, R61, R62; spec/43_string_ops.md R171 to R173). The second request of `MOVS` and of `CMPS` is made
only where the first is answered. -/
def requests (i : Instr) (s : State) : List Exchange :=
  match i with
  | .movRegMemImm _ imm => [readExchange imm s]
  | .movRegMemReg _ r2 => [readExchange (s.reg r2) s]
  | .movRegMemRegImm _ r2 imm => [readExchange (s.sumAddress r2 imm) s]
  | .movMemImmReg r2 imm => [writeExchange imm (s.reg r2) s]
  | .movMemRegReg r1 r2 => [writeExchange (s.reg r1) (s.reg r2) s]
  | .movMemRegImmReg r1 r2 imm => [writeExchange (s.sumAddress r1 imm) (s.reg r2) s]
  | .push r1 => [writeExchange (s.reg SP) (s.reg r1) s]
  | .callImm _ | .callReg _ => [writeExchange (s.reg SP) s.pc s]
  | .pop _ | .ret => popExchange s
  | .inPort _ port => [portExchange (.portRead port) s]
  | .outImm port imm => [portExchange (.portWrite port imm) s]
  | .outReg port r1 => [portExchange (.portWrite port (s.reg r1)) s]
  | .sets => [writeExchange (s.reg DR) (s.reg SR) s]
  | .movs =>
    readExchange (s.reg SR) s ::
      match s.busRead (s.reg SR) with
      | (some v, s') => [writeExchange (s.reg DR) v s']
      | (none, _) => []
  | .cmps _ =>
    readExchange (s.reg DR) s ::
      match s.busRead (s.reg DR) with
      | (some _, s') => [readExchange (s.reg SR) s']
      | (none, _) => []
  | .hlt | .wait | .jmpImm _ | .jmpReg _ | .jtImm _ _ | .jtReg _ _ | .jfImm _ _ | .jfReg _ _
  | .ieqImm _ _ | .ieqReg _ _ | .ineImm _ _ | .ineReg _ _ | .igtImm _ _ | .igtReg _ _ | .igeImm _ _
  | .igeReg _ _ | .iltImm _ _ | .iltReg _ _ | .ileImm _ _ | .ileReg _ _ | .feqImm _ _ | .feqReg _ _
  | .fneImm _ _ | .fneReg _ _ | .fgtImm _ _ | .fgtReg _ _ | .fgeImm _ _ | .fgeReg _ _ | .fltImm _ _
  | .fltReg _ _ | .fleImm _ _ | .fleReg _ _ | .movRegImm _ _ | .movRegReg _ _ | .leaReg _ _
  | .leaRegImm _ _ _ | .cif _ | .cfi _ | .cib _ | .cfb _ | .notReg _ | .andImm _ _
  | .andReg _ _ | .orImm _ _ | .orReg _ _ | .xorImm _ _ | .xorReg _ _ | .bnot _ | .shlImm _ _ | .shlReg _ _
  | .iaddImm _ _ | .iaddReg _ _ | .isubImm _ _ | .isubReg _ _ | .imulImm _ _ | .imulReg _ _ | .idivImm _ _
  | .idivReg _ _ | .imodImm _ _ | .imodReg _ _ | .isgn _ | .iminImm _ _ | .iminReg _ _ | .imaxImm _ _
  | .imaxReg _ _ | .iabs _ | .faddImm _ _ | .faddReg _ _ | .fsubImm _ _ | .fsubReg _ _ | .fmulImm _ _
  | .fmulReg _ _ | .fdivImm _ _ | .fdivReg _ _ | .fmodImm _ _ | .fmodReg _ _ | .fsgn _ | .fminImm _ _
  | .fminReg _ _ | .fmaxImm _ _ | .fmaxReg _ _ | .fabs _ | .flr _ | .ceil _ | .round _ | .sin _ | .acos _
  | .atan2 _ _ | .log _ | .pow _ _ => []

/-- The requests of the execute step that finds the given words, none for words that are no instruction. -/
def wordRequests (words : List Word) (s : State) : List Exchange :=
  match decode words with
  | .ok (i, _) => requests i s
  | .error _ => []

/-- The requests of a processing cycle that starts in `s`, first to come first: the instruction word at `pc`, the
immediate word after it where bit 25 of the first asks for one, then the instruction's own; after a fetch that fails
there are none (spec/30_encoding.md R85 to R87). -/
def cycleRequests (s : State) : List Exchange :=
  readExchange s.pc s ::
    match s.busRead s.pc with
    | (none, _) => []
    | (some w, s1) =>
      let s1 := { s1 with ir := w, pc := s.pc + 1 }
      if w.getLsbD 25 then
        readExchange (s.pc + 1) s1 ::
          match s1.busRead (s.pc + 1) with
          | (none, _) => []
          | (some v, s2) => wordRequests [w, v] { s2 with imm := v, pc := s.pc + 2 }
      else wordRequests [w] s1

/-- The requests of a step: those of the processing cycle on a cycle signal that finds no flag set, and none
otherwise (spec/60_exceptions.md R269 to R271). -/
def stepRequests (s : State) : List Exchange :=
  if s.nextSignal = .cycle ∧ s.halt = false ∧ s.wait = false then
    cycleRequests { s with signals := s.signals.tail, history := .signal .cycle :: s.history }
  else []

/-! ### Runs of string instructions (spec/43_string_ops.md R170) -/

/-- The CPU runs, only cycle signals are to come, `pc` is at a RAM address that holds the word `w`, and CR is
`n ≥ 1`. -/
structure StringReady (w : Word) (n : Nat) (s : State) : Prop where
  halt : s.halt = false
  wait : s.wait = false
  signals : s.signals = []
  ram : s.pc.toNat ≤ 0x003FFFFF
  word : s.peek s.pc = some w
  positive : 1 ≤ n
  count : s.reg CR = BitVec.ofNat 32 n

/-- The `n` words from `a` on are RAM. -/
def RamRange (a : Word) (n : Nat) : Prop := a.toNat + n ≤ 0x00400000

/-- The address is one of the `n` words from `a` on. -/
def InRange (a : Word) (n : Nat) (b : Word) : Prop := a.toNat ≤ b.toNat ∧ b.toNat < a.toNat + n

/-- `k` of the `n` iterations of the string instruction with the word `w` lead from `s` to `t`: CR counts the
iterations left, `pc` is at the instruction until the last one moves it past, and of the registers only those listed
and CR may have changed. -/
structure Iterated (w : Word) (n k : Nat) (rs : List Reg) (s t : State) : Prop where
  run : Host.Core.run Sys2Proof.core k s = .next t
  count : t.reg CR = BitVec.ofNat 32 (n - k)
  pc : t.pc = if k = n then s.pc + 1 else s.pc
  regs : SameRegsBut (CR :: rs) s t
  ir : 1 ≤ k → t.ir = w
  imm : t.imm = s.imm
  halt : t.halt = false
  wait : t.wait = false

/-! ### Instruction words, by bit numbers (spec/30_encoding.md R82) -/

/-- The opcode number of a word, its bits 31:26. -/
def opBits (w : Word) : Nat := (w.extractLsb' 26 6).toNat

/-- The addressing mode of a word, its bits 16:14. -/
def modeBits (w : Word) : Nat := (w.extractLsb' 14 3).toNat

/-- The ill-formed words as R94 lists them: a one-variant opcode with bit 25 set, or a `MOV` (opcode 19) whose bit 25
does not fit its mode. -/
def IllFormedWord (w : Word) : Prop :=
  (w.getLsbD 25 = true ∧ (opBits w ∈ [0, 1, 4, 21, 22, 23, 36, 43, 46, 52] ∨ (25 ≤ opBits w ∧ opBits w ≤ 32) ∨
    55 ≤ opBits w)) ∨
  (opBits w = 19 ∧ ((w.getLsbD 25 = false ∧ modeBits w ∈ [0, 2, 4, 5, 7]) ∨
    (w.getLsbD 25 = true ∧ modeBits w ∈ [1, 3, 6])))

/-- The fields that count in a word, by its opcode and bit 25, as a mask (R83, R93): opcode and bit 25 always, then
`r1` (0x01E00000), `r2` (0x001E0000), the mode (0x0001C000) for `MOV`, the port (0x00003FFF) for `IN` and `OUT`. A word
that is ill formed is told so by its opcode, bit 25 and mode alone. -/
def usedMask (w : Word) : Word :=
  let n := opBits w
  let useimm := w.getLsbD 25
  let opcode : Word := 0xFE000000
  let r1 : Word := 0x01E00000
  let r2 : Word := 0x001E0000
  let mode : Word := 0x0001C000
  let port : Word := 0x00003FFF
  if n ∈ [0, 1, 4, 25, 26] then opcode
  else if n = 2 ∨ n = 3 then (if useimm then opcode else opcode ||| r1)
  else if n = 19 then
    (if modeBits w = 5 then opcode ||| mode ||| r2
     else if modeBits w = 0 ∨ modeBits w = 2 then opcode ||| mode ||| r1
     else opcode ||| mode ||| r1 ||| r2)
  else if n = 20 ∨ n = 61 ∨ n = 63 then opcode ||| r1 ||| r2
  else if n = 23 then opcode ||| r1 ||| port
  else if n = 24 then (if useimm then opcode ||| port else opcode ||| r1 ||| port)
  else if n ∈ [21, 22, 27, 28, 29, 30, 31, 32, 36, 43, 46, 52, 55, 56, 57, 58, 59, 60, 62] then opcode ||| r1
  else if useimm then opcode ||| r1
  else opcode ||| r1 ||| r2

/-! ### Floats as numbers (spec/47_float_arithmetic.md R215) -/

/-- The exponent field, bits 30:23, and the fraction field, bits 22:0. -/
def expBits (w : Word) : Nat := (w.extractLsb' 23 8).toNat
def fracBits (w : Word) : Nat := (w.extractLsb' 0 23).toNat

/-- The word is a finite float: neither an infinity nor a NaN. -/
abbrev IsFinite (w : Word) : Prop := expBits w ≠ 255

/-- The word is a NaN. -/
abbrev IsNaN (w : Word) : Prop := expBits w = 255 ∧ fracBits w ≠ 0

/-- The word is an infinity. -/
abbrev IsInfinity (w : Word) : Prop := expBits w = 255 ∧ fracBits w = 0

/-- The number a finite binary32 word stands for. -/
def floatValue (w : Word) : ℚ :=
  (if w.getLsbD 31 then -1 else 1) *
    (if expBits w = 0 then (fracBits w : ℚ) / 2 ^ 149
     else (1 + (fracBits w : ℚ) / 2 ^ 23) * 2 ^ ((expBits w : ℤ) - 127))

/-- A float that is no NaN as an extended number: the infinities are below and above every other (R137). -/
def extendedValue (w : Word) : WithBot (WithTop ℚ) :=
  if IsInfinity w then (if w.getLsbD 31 then ⊥ else ((⊤ : WithTop ℚ) : WithBot (WithTop ℚ)))
  else (((floatValue w : ℚ) : WithTop ℚ) : WithBot (WithTop ℚ))

/-- `w` is the float nearest to `x`, and of two equally near the one whose last bit is 0 (R215); from half a unit
above the largest finite float on, the infinity of the sign of `x`. -/
def RoundsTo (x : ℚ) (w : Word) : Prop :=
  if |x| < 2 ^ 128 - 2 ^ 103 then
    IsFinite w ∧ ∀ z, IsFinite z → |floatValue w - x| ≤ |floatValue z - x| ∧
      (|floatValue w - x| = |floatValue z - x| → floatValue z ≠ floatValue w → w.getLsbD 0 = false)
  else w = if x < 0 then 0xFF800000 else 0x7F800000

end Sys2Proof.Machine
end

