-- ==== Sys2Proof/Certificates/Slice0/Obligations.lean ====
section
/-! DEFINITION. The statements for the provers, each from the numbered rules of spec/. A docstring names the rules. Where
it says "entry n", that clause is the model's own choice or reading, written down in notes/assumptions/n.md. -/

open Sys2Proof Sys2Proof.Machine

/-! ### Encoding (spec/30_encoding.md) -/

/-- Decoding the words of a well-formed instruction gives it back and leaves the words after it (R82, R92, R93; the
layout is the presumed one of entry 1). -/
def Obligations.DecodeEncodeRoundTrip : Prop :=
  ∀ (i : Instr) (rest : List Word), i.wellFormed = true → decode (encode i ++ rest) = .ok (i, rest)

/-- Two words that agree on the fields R93 says are used decode alike (R83), and an encoder leaves the rest zero. The
positions of the fields are presumed (entry 1). -/
def Obligations.UnusedFieldsIgnored : Prop :=
  (∀ w v imm : Word, w &&& usedMask w = v &&& usedMask w → decodeWord w imm = decodeWord v imm) ∧
  (∀ i : Instr, i.wellFormed = true → ∃ w rest, encode i = w :: rest ∧ w &&& usedMask w = w)

/-- The words that decode to no instruction are exactly those R94 lists (entries 1, 26). -/
def Obligations.IllFormedWordsExactly : Prop :=
  ∀ w imm : Word, (∃ e, decodeWord w imm = .error e) ↔ IllFormedWord w

/-- A few words written out in the rules' examples, with the instructions they stand for (entry 1). -/
def Obligations.SpecWordsDecode : Prop :=
  decode [0x00000000] = .ok (.hlt, []) ∧
  decode [0x0E000000, 0x00000300] = .ok (.callImm 0x300, []) ∧
  decode [0x22200000, 0x00000007] = .ok (.ineImm 1 7, []) ∧
  decode [0x4E25C000, 0x00000002] = .ok (.movMemRegImmReg 1 2 2, []) ∧
  decode [0x62000005, 0x00000001] = .ok (.outImm 5 1, []) ∧
  decode [0x6C200000] = .ok (.cmps 1, []) ∧
  decode [0x70200000] = .ok (.cif 1, []) ∧
  decode [0x94240000] = .ok (.shlReg 1 2, []) ∧
  decode [0xA4240000] = .ok (.idivReg 1 2, []) ∧
  decode [0xBC240000] = .ok (.faddReg 1 2, []) ∧
  decode [0xF4240000] = .ok (.atan2 1 2, [])

/-! ### The step (spec/30_encoding.md R85, spec/60_exceptions.md R268 to R271) -/

/-- A STEP RUNS THE DECODED INSTRUCTION: on a cycle signal with both flags clear, if the word at `pc` and, where its
bit 25 asks for it, the word after it decode to an instruction, the step is that instruction from the state in which
`IR` (and `Imm`) hold the words read and `pc` is past them (R85 to R87; the order is entry 17's, that bit 25 is the
one that asks is the presumed layout of entry 1). -/
def Obligations.StepRunsDecodedInstruction : Prop :=
  ∀ (s : State) (i : Instr) (w v : Word), s.halt = false → s.wait = false → s.nextSignal = .cycle →
    let s0 := { s with signals := s.signals.tail, history := .signal .cycle :: s.history }
    let s1 := { (s0.busRead s.pc).2 with ir := w, pc := s.pc + 1 }
    (s0.busRead s.pc).1 = some w →
    (w.getLsbD 25 = false → decode [w] = .ok (i, []) → step s = exec i s1) ∧
    (w.getLsbD 25 = true → (s1.busRead (s.pc + 1)).1 = some v → decode [w, v] = .ok (i, []) →
      step s = exec i { (s1.busRead (s.pc + 1)).2 with imm := v, pc := s.pc + 2 })

/-- An ill-formed word is refused by the step after the fetch steps have run by its bit 25 alone (R87, R95; the
refusal is entry 26's, the place of the bit and of the fields the presumed layout of entry 1), and nothing else stops a
step: it never faults, and where it refuses, the word at `pc` is ill formed (R250; that -2^31 divided by -1 is no
refusal is the choice of entry 13). -/
def Obligations.StepStopsExactlyOnIllFormedWords : Prop :=
  ∀ s : State,
    let s0 := { s with signals := s.signals.tail, history := .signal .cycle :: s.history }
    (∀ w v, s.halt = false → s.wait = false → s.nextSignal = .cycle → IllFormedWord w →
      (s0.busRead s.pc).1 = some w →
      let s1 := { (s0.busRead s.pc).2 with ir := w, pc := s.pc + 1 }
      (w.getLsbD 25 = false → step s = .refused (.illFormed (s.pc + 1) w s.imm)) ∧
      (w.getLsbD 25 = true → (s1.busRead (s.pc + 1)).1 = some v →
        step s = .refused (.illFormed (s.pc + 2) w v))) ∧
    (∀ f, step s ≠ .fault f) ∧
    ∀ r, step s = .refused r →
      ∃ w p m, r = .illFormed p w m ∧ IllFormedWord w ∧ (s0.busRead s.pc).1 = some w

/-- A fetch whose read fails takes error 0: the instruction fetch with `pc`, `IR` and `Imm` as they were, the
immediate fetch with the new `IR` and `pc` at the immediate's address (R86, R87, R263; entry 17; that bit 25 asks for
the immediate is the presumed layout of entry 1). -/
def Obligations.FailedFetchRaisesInvalidMemoryRead : Prop :=
  ∀ (s : State) (w : Word), s.halt = false → s.wait = false → s.nextSignal = .cycle →
    let s0 := { s with signals := s.signals.tail, history := .signal .cycle :: s.history }
    let s1 := { (s0.busRead s.pc).2 with ir := w, pc := s.pc + 1 }
    ((s0.busRead s.pc).1 = none →
      ∃ t, step s = .next t ∧ ErrorTaken .invalidMemoryRead s t ∧ t.reg 1 = s.pc ∧ SameMemory s t) ∧
    ((s0.busRead s.pc).1 = some w → w.getLsbD 25 = true → (s1.busRead (s.pc + 1)).1 = none →
      ∃ t, step s = .next t ∧ ErrorTaken .invalidMemoryRead { s with ir := w, pc := s.pc + 1 } t ∧ SameMemory s t)

/-- If any of the control flags is set, a cycle signal does nothing (R271): only the schedule and the record of the
run move on. -/
def Obligations.CycleIgnoredWhileFlagSet : Prop :=
  ∀ s : State, s.nextSignal = .cycle → s.halt = true ∨ s.wait = true →
    step s = .next { s with signals := s.signals.tail, history := .signal .cycle :: s.history }

/-- The frame signal clears the Wait flag and changes nothing else (R270). -/
def Obligations.FrameSignalClearsWait : Prop :=
  ∀ s : State, s.nextSignal = .frame →
    step s = .next { s with wait := false, signals := s.signals.tail, history := .signal .frame :: s.history }

/-- The reset signal, from every state (R269, R36): flags and registers cleared, BP and SP at the last RAM address,
`pc` at the BIOS start-up address, memory untouched (the model's reading, entry 20). That `IR` and `Imm` are cleared
is the spec's decision D13, entry 19. -/
def Obligations.ResetSignalResponse : Prop :=
  ∀ s : State, s.nextSignal = .reset →
    ∃ t, step s = .next t ∧ t.halt = false ∧ t.wait = false ∧ (∀ q : Reg, q.val ≤ 13 → t.reg q = 0) ∧
      t.reg 14 = 0x003FFFFF ∧ t.reg 15 = 0x003FFFFF ∧ t.pc = 0x10000004 ∧ t.ir = 0 ∧ t.imm = 0 ∧
      SameMemory s t ∧ t.signals = s.signals.tail ∧ t.answers = s.answers ∧
      t.history = .signal .reset :: s.history

/-- The machine right after reset (R36): the table's values (`IR` and `Imm`: entry 19; nothing listed in memory:
entry 20). -/
def Obligations.ResetState : Prop :=
  (∀ q : Reg, q.val ≤ 13 → State.reset.reg q = 0) ∧ State.reset.reg 14 = 0x003FFFFF ∧
  State.reset.reg 15 = 0x003FFFFF ∧ State.reset.pc = 0x10000004 ∧ State.reset.ir = 0 ∧ State.reset.imm = 0 ∧
  State.reset.halt = false ∧ State.reset.wait = false ∧ State.reset.mem = []

/-! ### Memory (spec/20_memory.md) -/

/-- A RAM address (0x00000000 to 0x003FFFFF) can always be read and written, and a read gives the word last written
(R56; that RAM never refuses is entry 27). -/
def Obligations.RamReadsWhatWasWritten : Prop :=
  ∀ (s : State) (a b v : Word), a.toNat ≤ 0x003FFFFF → b.toNat ≤ 0x003FFFFF →
    (∃ w, (s.busRead a).1 = some w) ∧ (s.busWrite a v).1 = true ∧
    ((s.busWrite a v).2.busRead b).1 = if b = a then some v else (s.busRead b).1

/-- Every step keeps the canonical form of memory: addresses strictly rising and below 2^32 (entry 23). -/
def Obligations.StepKeepsMemoryCanonical : Prop :=
  ∀ s t : State, s.mem.wf = true → step s = .next t → t.mem.wf = true

/-- The state after reset meets the two invariants that every step keeps. -/
def Obligations.ResetMeetsInvariants : Prop :=
  State.reset.mem.wf = true ∧ ¬ (State.reset.halt = true ∧ State.reset.wait = true)

/-- Both flags cannot be 1 together (R277): every step keeps it. -/
def Obligations.StepKeepsFlagsExclusive : Prop :=
  ∀ s t : State, ¬ (s.halt = true ∧ s.wait = true) → step s = .next t → ¬ (t.halt = true ∧ t.wait = true)

/-- The Halt flag is set to 1 only by `HLT`, cleared to 0 only by the reset signal, and while it is 1 the CPU ignores
cycle signals (R30). -/
def Obligations.HaltFlagSources : Prop :=
  ∀ s t : State, step s = .next t →
    (s.halt = false → t.halt = true → s.nextSignal = .cycle ∧
      ∃ w, (State.busRead { s with signals := s.signals.tail, history := .signal .cycle :: s.history } s.pc).1 =
        some w ∧ decode [w] = .ok (.hlt, [])) ∧
    (s.halt = true → t.halt = false → s.nextSignal = .reset) ∧
    (s.halt = true → s.nextSignal = .cycle →
      t = { s with signals := s.signals.tail, history := .signal .cycle :: s.history })

/-- The Wait flag is set to 1 only by `WAIT`, cleared to 0 by the frame signal and by the reset signal, and while it is
1 the CPU ignores cycle signals (R31). -/
def Obligations.WaitFlagSources : Prop :=
  ∀ s t : State, step s = .next t →
    (s.wait = false → t.wait = true → s.nextSignal = .cycle ∧
      ∃ w, (State.busRead { s with signals := s.signals.tail, history := .signal .cycle :: s.history } s.pc).1 =
        some w ∧ decode [w] = .ok (.wait, [])) ∧
    (s.wait = true → t.wait = false → s.nextSignal = .frame ∨ s.nextSignal = .reset) ∧
    (s.nextSignal = .frame → t.wait = false) ∧ (s.nextSignal = .reset → t.wait = false) ∧
    (s.wait = true → s.nextSignal = .cycle →
      t = { s with signals := s.signals.tail, history := .signal .cycle :: s.history })

/-- The run's record grows by the signal taken and then by the step's requests with their answers, each once and in
order: the read at `pc`, the read of the immediate word, and the requests of the instruction (R69, R290, R292; entries
1, 17, 18, 25). They are at most three, and the environment's answers are used up in order, at most one by each
(entries 21, 22). -/
def Obligations.StepRecordsEveryRequestOnce : Prop :=
  ∀ s t : State, step s = .next t →
    t.history = ((stepRequests s).map fun e => Event.request e.1 e.2).reverse ++ .signal s.nextSignal :: s.history ∧
    t.signals = s.signals.tail ∧ (stepRequests s).length ≤ 3 ∧
    ∃ k ≤ (stepRequests s).length, t.answers = s.answers.drop k

/-! ### All instructions -/

/-- `exec` always answers a next state, which may be the entry of a hardware error (R250), and so stops on no operands;
that -2^31 divided by -1 answers one too is the choice of entry 13, where the spec recommends a refusal (D9). No
instruction changes `IR` or `Imm`, which the fetch steps and reset write (spec/10_state.md R27, R28), and none takes a
signal. -/
def Obligations.ExecAlwaysAnswersNext : Prop :=
  ∀ (i : Instr) (s : State), ∃ t, exec i s = .next t ∧ t.ir = s.ir ∧ t.imm = s.imm ∧ t.signals = s.signals

/-- The only memory word an instruction can change is the one at its store address; an instruction that stores nothing
changes none (spec/20_memory.md R55, R67). -/
def Obligations.ExecStoresOnlyAtStoreAddress : Prop :=
  ∀ (i : Instr) (s t : State), exec i s = .next t → ∀ a, storeAddress i s ≠ some a → t.peek a = s.peek a

/-! ### CPU control and jumps (spec/40_control_and_jumps.md) -/

/-- `HLT` and `WAIT` set their flag and nothing else changes (R110, R111). -/
def Obligations.HltAndWaitSetTheirFlag : Prop :=
  ∀ s : State, exec .hlt s = .next { s with halt := true } ∧ exec .wait s = .next { s with wait := true }

/-- `JMP` goes to the immediate or to the register's value, all 32 bits of it (R112). -/
def Obligations.JmpGoesToItsOperand : Prop :=
  ∀ s : State, (∀ imm, Completes (.jmpImm imm) s (Jumped imm s)) ∧
    ∀ r1, Completes (.jmpReg r1) s (Jumped (s.reg r1) s)

/-- `JT` jumps exactly if the register is not zero, `JF` exactly if it is zero, and otherwise they have no effect
(R115, R116). -/
def Obligations.ConditionalJumps : Prop :=
  ∀ (s : State) (r1 : Reg),
    (s.reg r1 ≠ 0 →
      (∀ imm, Completes (.jtImm r1 imm) s (Jumped imm s) ∧ exec (.jfImm r1 imm) s = .next s) ∧
      ∀ r2, Completes (.jtReg r1 r2) s (Jumped (s.reg r2) s) ∧ exec (.jfReg r1 r2) s = .next s) ∧
    (s.reg r1 = 0 →
      (∀ imm, Completes (.jfImm r1 imm) s (Jumped imm s) ∧ exec (.jtImm r1 imm) s = .next s) ∧
      ∀ r2, Completes (.jfReg r1 r2) s (Jumped (s.reg r2) s) ∧ exec (.jtReg r1 r2) s = .next s)

/-- `CALL` stores the already incremented `pc` at SP, decrements SP and jumps, where the store is answered and SP does
not become negative; the register form reads its register after the push (R113, spec/20_memory.md R57). -/
def Obligations.CallPushesReturnAddress : Prop :=
  ∀ s : State, (s.busWrite (s.reg 15) s.pc).1 = true → 0 ≤ (s.reg 15 - 1).toInt →
    let pushed (t : State) := t.reg 15 = s.reg 15 - 1 ∧ SameRegsBut [15] s t ∧ SameInternals s t ∧
      StoredWord (s.reg 15) s.pc s t
    (∀ imm, Completes (.callImm imm) s fun t => pushed t ∧ t.pc = imm) ∧
    ∀ r1, Completes (.callReg r1) s fun t => pushed t ∧ t.pc = t.reg r1

/-- `RET` increments SP and jumps to the word there (R114, spec/20_memory.md R58). -/
def Obligations.RetPopsProgramCounter : Prop :=
  ∀ (s : State) (w : Word), (s.reg 15 + 1).toInt ≤ 0x003FFFFF → (s.busRead (s.reg 15 + 1)).1 = some w →
    Completes .ret s fun t => t.pc = w ∧ t.reg 15 = s.reg 15 + 1 ∧ SameRegsBut [15] s t ∧ SameInternals s t ∧
      LoadedWord (s.reg 15 + 1) w s t

/-- `CALL`, in either form, then `RET` comes back: where SP is a RAM address above 0, after a `CALL` the `RET` completes
with `pc`, SP and every register as before the `CALL` (R113, R114, spec/20_memory.md R56 to R58; that RAM refuses neither
the push nor the pop is entry 27, the place of the underflow test entry 18). -/
def Obligations.CallThenRetReturns : Prop :=
  ∀ (s t : State) (r1 : Reg) (imm : Word), (s.reg 15).toNat ≤ 0x003FFFFF → s.reg 15 ≠ 0 →
    exec (.callImm imm) s = .next t ∨ exec (.callReg r1) s = .next t →
    ∃ u, exec .ret t = .next u ∧ u.pc = s.pc ∧ (∀ q, u.reg q = s.reg q) ∧ SameInternals s u ∧
      SameMemoryBut (s.reg 15) s u

/-! ### Comparisons (spec/41_comparisons.md) -/

/-- `IEQ` and `INE` write the truth of the words' (in)equality as 1 or 0, and nothing else changes (R131, R132). -/
def Obligations.IntegerEquality : Prop :=
  ∀ (s : State) (r1 : Reg),
    (∀ b, WritesTruth (.ieqImm r1 b) s r1 (s.reg r1 = b) ∧ WritesTruth (.ineImm r1 b) s r1 (s.reg r1 ≠ b)) ∧
    ∀ r2, WritesTruth (.ieqReg r1 r2) s r1 (s.reg r1 = s.reg r2) ∧
      WritesTruth (.ineReg r1 r2) s r1 (s.reg r1 ≠ s.reg r2)

/-- `IGT`, `IGE`, `ILT` and `ILE` write the truth of the relation between the signed readings (R133 to R136; two's
complement is entry 3). -/
def Obligations.IntegerOrder : Prop :=
  ∀ (s : State) (r1 : Reg),
    (∀ b, WritesTruth (.igtImm r1 b) s r1 ((s.reg r1).toInt > b.toInt) ∧
      WritesTruth (.igeImm r1 b) s r1 ((s.reg r1).toInt ≥ b.toInt) ∧
      WritesTruth (.iltImm r1 b) s r1 ((s.reg r1).toInt < b.toInt) ∧
      WritesTruth (.ileImm r1 b) s r1 ((s.reg r1).toInt ≤ b.toInt)) ∧
    ∀ r2, WritesTruth (.igtReg r1 r2) s r1 ((s.reg r1).toInt > (s.reg r2).toInt) ∧
      WritesTruth (.igeReg r1 r2) s r1 ((s.reg r1).toInt ≥ (s.reg r2).toInt) ∧
      WritesTruth (.iltReg r1 r2) s r1 ((s.reg r1).toInt < (s.reg r2).toInt) ∧
      WritesTruth (.ileReg r1 r2) s r1 ((s.reg r1).toInt ≤ (s.reg r2).toInt)

/-- The six float comparisons write the truth of the relation between the operands' values, the zeros equal and the
infinities at the ends; with a NaN operand every relation is false but `FNE`. `CFB` writes 0 for the two zeros and 1
for every other float, NaNs included (R137 to R143, spec/44_conversions.md R183; entries 4, 6). -/
def Obligations.FloatComparisons : Prop :=
  ∀ (s : State) (r1 : Reg),
    let holds (rel : WithBot (WithTop ℚ) → WithBot (WithTop ℚ) → Prop) (b : Word) : Prop :=
      ¬ IsNaN (s.reg r1) ∧ ¬ IsNaN b ∧ rel (extendedValue (s.reg r1)) (extendedValue b)
    WritesTruth (.cfb r1) s r1 (s.reg r1 ≠ 0x00000000 ∧ s.reg r1 ≠ 0x80000000) ∧
    (∀ b, WritesTruth (.feqImm r1 b) s r1 (holds (· = ·) b) ∧
      WritesTruth (.fneImm r1 b) s r1 (¬ holds (· = ·) b) ∧
      WritesTruth (.fgtImm r1 b) s r1 (holds (· > ·) b) ∧
      WritesTruth (.fgeImm r1 b) s r1 (holds (· ≥ ·) b) ∧
      WritesTruth (.fltImm r1 b) s r1 (holds (· < ·) b) ∧
      WritesTruth (.fleImm r1 b) s r1 (holds (· ≤ ·) b)) ∧
    ∀ r2, WritesTruth (.feqReg r1 r2) s r1 (holds (· = ·) (s.reg r2)) ∧
      WritesTruth (.fneReg r1 r2) s r1 (¬ holds (· = ·) (s.reg r2)) ∧
      WritesTruth (.fgtReg r1 r2) s r1 (holds (· > ·) (s.reg r2)) ∧
      WritesTruth (.fgeReg r1 r2) s r1 (holds (· ≥ ·) (s.reg r2)) ∧
      WritesTruth (.fltReg r1 r2) s r1 (holds (· < ·) (s.reg r2)) ∧
      WritesTruth (.fleReg r1 r2) s r1 (holds (· ≤ ·) (s.reg r2))

/-! ### Data movement (spec/42_data_movement.md) -/

/-- `MOV` modes 0 and 1 and `LEA` write the immediate, the register, or their sum modulo 2^32 (R150, R151; entry
16). -/
def Obligations.RegisterMoves : Prop :=
  ∀ (s : State) (r1 r2 : Reg) (imm : Word),
    Writes (.movRegImm r1 imm) s r1 imm ∧ Writes (.movRegReg r1 r2) s r1 (s.reg r2) ∧
    Writes (.leaReg r1 r2) s r1 (s.reg r2) ∧
    Writes (.leaRegImm r1 r2 imm) s r1 (BitVec.ofNat 32 ((s.reg r2).toNat + imm.toNat))

/-- `MOV` modes 2, 3 and 4 write the word that the memory bus answers for the immediate, the register, or their sum
(R150; entry 16). -/
def Obligations.MovLoads : Prop :=
  ∀ (s : State) (r1 r2 : Reg) (imm w : Word),
    let loads (i : Instr) (a : Word) := (s.busRead a).1 = some w → Completes i s fun t =>
      t.reg r1 = w ∧ SameRegsBut [r1] s t ∧ t.pc = s.pc ∧ SameInternals s t ∧ LoadedWord a w s t
    loads (.movRegMemImm r1 imm) imm ∧ loads (.movRegMemReg r1 r2) (s.reg r2) ∧
    loads (.movRegMemRegImm r1 r2 imm) (BitVec.ofNat 32 ((s.reg r2).toNat + imm.toNat))

/-- `MOV` modes 5, 6 and 7 store Register 2 at the immediate, at Register 1, or at their sum, where the bus takes the
word (R150; entry 16). -/
def Obligations.MovStores : Prop :=
  ∀ (s : State) (r1 r2 : Reg) (imm : Word),
    let stores (i : Instr) (a : Word) := (s.busWrite a (s.reg r2)).1 = true → Completes i s fun t =>
      (∀ q, t.reg q = s.reg q) ∧ t.pc = s.pc ∧ SameInternals s t ∧ StoredWord a (s.reg r2) s t
    stores (.movMemImmReg r2 imm) imm ∧ stores (.movMemRegReg r1 r2) (s.reg r1) ∧
    stores (.movMemRegImmReg r1 r2 imm) (BitVec.ofNat 32 ((s.reg r1).toNat + imm.toNat))

/-- `PUSH` stores the register at SP and decrements SP; `PUSH SP` stores the value before the decrement (R152). -/
def Obligations.PushStoresAndDecrements : Prop :=
  ∀ (s : State) (r1 : Reg), (s.busWrite (s.reg 15) (s.reg r1)).1 = true → 0 ≤ (s.reg 15 - 1).toInt →
    Completes (.push r1) s fun t => t.reg 15 = s.reg 15 - 1 ∧ SameRegsBut [15] s t ∧ t.pc = s.pc ∧
      SameInternals s t ∧ StoredWord (s.reg 15) (s.reg r1) s t

/-- `POP` increments SP and loads the word there into the register; `POP SP` ends with that word in SP (R153). -/
def Obligations.PopLoadsAndIncrements : Prop :=
  ∀ (s : State) (r1 : Reg) (w : Word), (s.reg 15 + 1).toInt ≤ 0x003FFFFF →
    (s.busRead (s.reg 15 + 1)).1 = some w →
    Completes (.pop r1) s fun t => t.reg r1 = w ∧ (r1 ≠ 15 → t.reg 15 = s.reg 15 + 1) ∧
      SameRegsBut [15, r1] s t ∧ t.pc = s.pc ∧ SameInternals s t ∧ LoadedWord (s.reg 15 + 1) w s t

/-- `PUSH` then `POP` moves the pushed word and restores SP, where SP is a RAM address above 0 (R152, R153,
spec/20_memory.md R56 to R58; that RAM refuses neither the push nor the pop is entry 27, the place of the underflow test
entry 18). -/
def Obligations.PushThenPopMoves : Prop :=
  ∀ (s t : State) (r1 r2 : Reg), (s.reg 15).toNat ≤ 0x003FFFFF → s.reg 15 ≠ 0 → exec (.push r1) s = .next t →
    ∃ u, exec (.pop r2) t = .next u ∧ u.reg r2 = s.reg r1 ∧ (r2 ≠ 15 → u.reg 15 = s.reg 15) ∧
      SameRegsBut [15, r2] s u ∧ u.pc = s.pc ∧ SameInternals s u ∧ SameMemoryBut (s.reg 15) s u

/-- `IN` makes one read request on the control bus and writes the answered word to the register; `OUT` makes one
write request there with the immediate itself or the register, and none on the memory bus (R154, R155,
spec/30_encoding.md R100). -/
def Obligations.PortAccess : Prop :=
  ∀ (s : State) (port : Nat) (x : Word),
    let writes (i : Instr) (v : Word) := s.answerTo (.portWrite port v) = some x → Completes i s fun t =>
      (∀ q, t.reg q = s.reg q) ∧ t.pc = s.pc ∧ SameInternals s t ∧ SameMemory s t ∧
      Asked (.portWrite port v) (some x) s t
    (∀ imm, writes (.outImm port imm) imm) ∧ (∀ r1, writes (.outReg port r1) (s.reg r1)) ∧
    ∀ r1, s.answerTo (.portRead port) = some x → Completes (.inPort r1 port) s fun t =>
      t.reg r1 = x ∧ SameRegsBut [r1] s t ∧ t.pc = s.pc ∧ SameInternals s t ∧ SameMemory s t ∧
      Asked (.portRead port) (some x) s t

/-! ### String instructions (spec/43_string_ops.md) -/

/-- One iteration of `MOVS`: the word at SR is stored at DR, both pointers move up, CR is decremented, and `pc` goes
back to the instruction while CR is positive (R170, R171). -/
def Obligations.MovsIteration : Prop :=
  ∀ (s : State) (v : Word), (s.busRead (s.reg 12)).1 = some v →
    ((s.busRead (s.reg 12)).2.busWrite (s.reg 13) v).1 = true →
    Completes .movs s fun t =>
      t.reg 13 = s.reg 13 + 1 ∧ t.reg 12 = s.reg 12 + 1 ∧ t.reg 11 = s.reg 11 - 1 ∧ SameRegsBut [11, 12, 13] s t ∧
      t.pc = (if 0 < (s.reg 11 - 1).toInt then s.pc - 1 else s.pc) ∧ SameInternals s t ∧
      SameMemoryBut (s.reg 13) s t ∧ t.peek (s.reg 13) = (s.peek (s.reg 13)).map (fun _ => v) ∧
      t.signals = s.signals ∧ ∃ x, t.history =
        .request (.memWrite (s.reg 13) v) (some x) :: .request (.memRead (s.reg 12)) (some v) :: s.history

/-- One iteration of `SETS`: the value of SR is stored at DR, DR moves up, CR is decremented, SR stays (R170, R172). -/
def Obligations.SetsIteration : Prop :=
  ∀ s : State, (s.busWrite (s.reg 13) (s.reg 12)).1 = true →
    Completes .sets s fun t =>
      t.reg 13 = s.reg 13 + 1 ∧ t.reg 11 = s.reg 11 - 1 ∧ SameRegsBut [11, 13] s t ∧
      t.pc = (if 0 < (s.reg 11 - 1).toInt then s.pc - 1 else s.pc) ∧ SameInternals s t ∧
      StoredWord (s.reg 13) (s.reg 12) s t

/-- One iteration of `CMPS`: the word at DR less the word at SR goes to the result register; if it is not zero the
instruction ends there, else the pointers and CR move on from the registers as the result left them, CR, SR and DR as
result registers included (R170, R173; the order of the reads is entry 18). -/
def Obligations.CmpsIteration : Prop :=
  ∀ (s : State) (r1 : Reg) (a b : Word), (s.busRead (s.reg 13)).1 = some a →
    ((s.busRead (s.reg 13)).2.busRead (s.reg 12)).1 = some b →
    Completes (.cmps r1) s fun t =>
      SameInternals s t ∧ SameMemory s t ∧ t.signals = s.signals ∧
      t.history = .request (.memRead (s.reg 12)) (some b) :: .request (.memRead (s.reg 13)) (some a) :: s.history ∧
      (a ≠ b → t.reg r1 = a - b ∧ SameRegsBut [r1] s t ∧ t.pc = s.pc) ∧
      (a = b →
        let x (q : Reg) : Word := if q = r1 then 0 else s.reg q
        t.reg 13 = x 13 + 1 ∧ t.reg 12 = x 12 + 1 ∧ t.reg 11 = x 11 - 1 ∧
        (∀ q : Reg, q ≠ 11 → q ≠ 12 → q ≠ 13 → t.reg q = x q) ∧
        t.pc = if 0 < (x 11 - 1).toInt then s.pc - 1 else s.pc)

/-- A string instruction with CR = n ≥ 1 takes exactly `n` cycles (R170, R288): from a state that runs with the
instruction's word at a RAM address, `k ≤ n` steps are `k` iterations, and `pc` leaves the instruction with the last one.
`SETS` fills the words from DR on with SR (R172). `MOVS` copies the words from SR on to those from DR on, upwards one at
a time, so that the words before an overlapping destination repeat (R171). `CMPS` runs on over equal words, and ends at
the first pair that differs with the pointers and CR still at that pair (R173); a result in CR, SR or DR is left to
`CmpsIteration`. `SETS` and `MOVS` must not write over their own word.

The words 0x68000000, 0x64000000 and 0x6C000000 rest on the presumed layout (R82, D1; entry 1), that no request in RAM
fails on entry 27, that only cycle signals come on entry 24, the signed CR on entry 3. -/
def Obligations.StringRunsTakeExactlyCrCycles : Prop :=
  ∀ (s : State) (n : Nat),
    let src := s.reg 12
    let dst := s.reg 13
    (StringReady 0x68000000 n s → RamRange dst n → ¬ InRange dst n s.pc → ∀ k ≤ n,
      ∃ t, Iterated 0x68000000 n k [13] s t ∧ t.reg 13 = dst + BitVec.ofNat 32 k ∧
        (∀ a, ¬ InRange dst k a → t.peek a = s.peek a) ∧
        ∀ j < k, t.peek (dst + BitVec.ofNat 32 j) = some src) ∧
    (StringReady 0x64000000 n s → RamRange src n → RamRange dst n → ¬ InRange dst n s.pc → ∀ k ≤ n,
      ∃ t, Iterated 0x64000000 n k [12, 13] s t ∧ t.reg 12 = src + BitVec.ofNat 32 k ∧
        t.reg 13 = dst + BitVec.ofNat 32 k ∧ (∀ a, ¬ InRange dst k a → t.peek a = s.peek a) ∧
        ∀ j < k, t.peek (dst + BitVec.ofNat 32 j) = s.peek (src +
          BitVec.ofNat 32 (if src.toNat < dst.toNat then j % (dst.toNat - src.toNat) else j))) ∧
    ∀ r1 : Reg, r1 ∉ [11, 12, 13] →
      let word : Word := BitVec.ofNat 32 (0x6C000000 + r1.val * 2 ^ 21)
      let left (j : Nat) := s.peek (dst + BitVec.ofNat 32 j)
      let right (j : Nat) := s.peek (src + BitVec.ofNat 32 j)
      StringReady word n s → RamRange src n → RamRange dst n → ∀ k ≤ n, (∀ j < k, left j = right j) →
        (∃ t, Iterated word n k [r1, 12, 13] s t ∧ t.reg 12 = src + BitVec.ofNat 32 k ∧
          t.reg 13 = dst + BitVec.ofNat 32 k ∧ SameMemory s t ∧ (1 ≤ k → t.reg r1 = 0)) ∧
        ∀ a b, k < n → left k = some a → right k = some b → a ≠ b →
          ∃ t, Host.Core.run Sys2Proof.core (k + 1) s = .next t ∧ t.reg r1 = a - b ∧
            t.reg 12 = src + BitVec.ofNat 32 k ∧ t.reg 13 = dst + BitVec.ofNat 32 k ∧
            t.reg 11 = BitVec.ofNat 32 (n - k) ∧ SameRegsBut [r1, 11, 12, 13] s t ∧ t.pc = s.pc + 1 ∧
            t.ir = word ∧ t.imm = s.imm ∧ t.halt = false ∧ t.wait = false ∧ SameMemory s t

/-! ### Conversions (spec/44_conversions.md) -/

/-- `CIF` writes the float nearest to the signed integer, ties to even, and +0.0 for the integer 0 (R180; entries 3,
4). -/
def Obligations.CifRoundsToNearest : Prop :=
  ∀ (s : State) (r1 : Reg), ∃ v, Writes (.cif r1) s r1 v ∧ RoundsTo ((s.reg r1).toInt : ℚ) v ∧
    (s.reg r1 = 0 → v = 0x00000000)

/-- `CFI` writes the value truncated toward zero where a signed 32-bit integer holds it; otherwise it completes with a
word the spec does not state (R181; entries 4, 12). -/
def Obligations.CfiTruncates : Prop :=
  ∀ (s : State) (r1 : Reg), ∃ v, Writes (.cfi r1) s r1 v ∧
    ∀ n : Int, IsFinite (s.reg r1) → -2 ^ 31 ≤ n → n < 2 ^ 31 →
      |(n : ℚ)| ≤ |floatValue (s.reg r1)| → |floatValue (s.reg r1)| < |(n : ℚ)| + 1 →
      0 ≤ (n : ℚ) * floatValue (s.reg r1) → v = BitVec.ofInt 32 n

/-- `CIB` writes 1 for every non-zero word and 0 for zero; `BNOT` the opposite (R182, spec/45_binary_ops.md R194). -/
def Obligations.CibAndBnotTruth : Prop :=
  ∀ (s : State) (r1 : Reg), WritesTruth (.cib r1) s r1 (s.reg r1 ≠ 0) ∧ WritesTruth (.bnot r1) s r1 (s.reg r1 = 0)

/-! ### Binary operations (spec/45_binary_ops.md) -/

/-- `NOT`, `AND`, `OR` and `XOR` act on each of the 32 bits, and nothing but the register changes (R190 to R193). -/
def Obligations.BitwiseOperations : Prop :=
  ∀ (s : State) (r1 : Reg),
    let bitwise (i : Instr) (f : Bool → Bool → Bool) (b : Word) :=
      ∃ v, Writes i s r1 v ∧ ∀ k < 32, v.getLsbD k = f ((s.reg r1).getLsbD k) (b.getLsbD k)
    bitwise (.notReg r1) (fun x _ => !x) 0 ∧
    (∀ b, bitwise (.andImm r1 b) (· && ·) b ∧ bitwise (.orImm r1 b) (· || ·) b ∧
      bitwise (.xorImm r1 b) (· != ·) b) ∧
    ∀ r2, bitwise (.andReg r1 r2) (· && ·) (s.reg r2) ∧ bitwise (.orReg r1 r2) (· || ·) (s.reg r2) ∧
      bitwise (.xorReg r1 r2) (· != ·) (s.reg r2)

/-- `SHL` shifts to the left by a count that is not negative and to the right, logically, by a negative one, by R195's
two formulas (counts of 32 and more: entry 15). -/
def Obligations.ShiftByFormula : Prop :=
  ∀ (s : State) (r1 : Reg),
    let shifted (a b : Word) : Word :=
      if 0 ≤ b.toInt then BitVec.ofNat 32 (a.toNat * 2 ^ b.toInt.toNat)
      else BitVec.ofNat 32 (a.toNat / 2 ^ (-b.toInt).toNat)
    (∀ b, Writes (.shlImm r1 b) s r1 (shifted (s.reg r1) b)) ∧
    ∀ r2, Writes (.shlReg r1 r2) s r1 (shifted (s.reg r1) (s.reg r2))

/-! ### Integer arithmetic (spec/46_integer_arithmetic.md) -/

/-- `IADD`, `ISUB`, `IMUL` and `ISGN` write the word congruent to the exact result modulo 2^32 (R200 to R203, R206;
entries 3, 14). -/
def Obligations.IntegerArithmetic : Prop :=
  ∀ (s : State) (r1 : Reg),
    let congruent (i : Instr) (n : Int) := ∃ v, Writes i s r1 v ∧ (2 : Int) ^ 32 ∣ v.toInt - n
    congruent (.isgn r1) (-(s.reg r1).toInt) ∧
    (∀ b, congruent (.iaddImm r1 b) ((s.reg r1).toInt + b.toInt) ∧
      congruent (.isubImm r1 b) ((s.reg r1).toInt - b.toInt) ∧
      congruent (.imulImm r1 b) ((s.reg r1).toInt * b.toInt)) ∧
    ∀ r2, congruent (.iaddReg r1 r2) ((s.reg r1).toInt + (s.reg r2).toInt) ∧
      congruent (.isubReg r1 r2) ((s.reg r1).toInt - (s.reg r2).toInt) ∧
      congruent (.imulReg r1 r2) ((s.reg r1).toInt * (s.reg r2).toInt)

/-- `IMIN`, `IMAX` and `IABS` write the signed minimum and maximum and the absolute value; 0x80000000 stays as it is
under `IABS` (R207 to R209; entries 3, 14). -/
def Obligations.IntegerMinMaxAbs : Prop :=
  ∀ (s : State) (r1 : Reg),
    let signed (i : Instr) (n : Int) := ∃ v, Writes i s r1 v ∧ v.toInt = n
    (s.reg r1 ≠ 0x80000000 → signed (.iabs r1) |(s.reg r1).toInt|) ∧
    (s.reg r1 = 0x80000000 → Writes (.iabs r1) s r1 0x80000000) ∧
    (∀ b, signed (.iminImm r1 b) (min (s.reg r1).toInt b.toInt) ∧
      signed (.imaxImm r1 b) (max (s.reg r1).toInt b.toInt)) ∧
    ∀ r2, signed (.iminReg r1 r2) (min (s.reg r1).toInt (s.reg r2).toInt) ∧
      signed (.imaxReg r1 r2) (max (s.reg r1).toInt (s.reg r2).toInt)

/-- `IDIV` and `IMOD` by a divisor that is not zero complete, with the quotient and the remainder of the division
rounded toward zero: the dividend is divisor times quotient plus remainder, the remainder is smaller than the divisor,
and it is zero or has the dividend's sign. Where -2^31 is divided by -1 they complete with a word the spec does not
state (R204, R205; entries 3, 13). -/
def Obligations.IntegerDivision : Prop :=
  ∀ (s : State) (r1 : Reg),
    let divides (quo rem : Instr) (b : Word) := b ≠ 0 → ∃ q r, Writes quo s r1 q ∧ Writes rem s r1 r ∧
      (¬ (s.reg r1 = 0x80000000 ∧ b = 0xFFFFFFFF) →
        (s.reg r1).toInt = b.toInt * q.toInt + r.toInt ∧ |r.toInt| < |b.toInt| ∧ 0 ≤ r.toInt * (s.reg r1).toInt)
    (∀ b, divides (.idivImm r1 b) (.imodImm r1 b) b) ∧
    ∀ r2, divides (.idivReg r1 r2) (.imodReg r1 r2) (s.reg r2)

/-! ### Float arithmetic (spec/47_float_arithmetic.md) -/

/-- `FADD`, `FSUB` and `FMUL` complete for all operands (R215 to R218; entries 4, 5). For finite operands they write the
float nearest to the exact result, ties to even; an exact zero sum is +0.0, but -0.0 where both summands are -0.0, and a
product has the operands' signs multiplied. An infinity in a sum is the sum, unless the other summand is the opposite
infinity, which gives a NaN; an infinity in a product gives one, and with a zero a NaN. A NaN operand gives a NaN. The
bits of a NaN are free. The summands of `FSUB` are the first operand and the second with its sign bit inverted. -/
def Obligations.FloatAddSubMul : Prop :=
  ∀ (s : State) (r1 : Reg),
    let a := s.reg r1
    let sums (i : Instr) (exact : ℚ) (b : Word) := ∃ v, Writes i s r1 v ∧
      (IsFinite a → IsFinite b → RoundsTo exact v ∧
        (exact = 0 → v = if a = 0x80000000 ∧ b = 0x80000000 then 0x80000000 else 0x00000000)) ∧
      (IsNaN a ∨ IsNaN b → IsNaN v) ∧
      (IsInfinity a → IsInfinity b → a ≠ b → IsNaN v) ∧
      (IsInfinity a → IsFinite b ∨ b = a → v = a) ∧
      (IsInfinity b → IsFinite a → v = b)
    let multiplies (i : Instr) (b : Word) := ∃ v, Writes i s r1 v ∧
      (IsFinite a → IsFinite b → RoundsTo (floatValue a * floatValue b) v) ∧
      (IsNaN a ∨ IsNaN b → IsNaN v) ∧
      (IsInfinity a ∧ (b = 0x00000000 ∨ b = 0x80000000) ∨ (a = 0x00000000 ∨ a = 0x80000000) ∧ IsInfinity b →
        IsNaN v) ∧
      (¬ IsNaN v → v.getLsbD 31 = (a.getLsbD 31 != b.getLsbD 31)) ∧
      (IsInfinity a ∨ IsInfinity b → IsInfinity v ∨ IsNaN v) ∧
      (¬ IsNaN a → ¬ IsNaN b → a ≠ 0x00000000 → a ≠ 0x80000000 → b ≠ 0x00000000 → b ≠ 0x80000000 → ¬ IsNaN v)
    (∀ b, sums (.faddImm r1 b) (floatValue a + floatValue b) b ∧
      sums (.fsubImm r1 b) (floatValue a - floatValue b) (b ^^^ 0x80000000) ∧ multiplies (.fmulImm r1 b) b) ∧
    ∀ r2, sums (.faddReg r1 r2) (floatValue a + floatValue (s.reg r2)) (s.reg r2) ∧
      sums (.fsubReg r1 r2) (floatValue a - floatValue (s.reg r2)) (s.reg r2 ^^^ 0x80000000) ∧
      multiplies (.fmulReg r1 r2) (s.reg r2)

/-- `FDIV` and `FMOD` by a divisor that is not a zero complete (R219, R220; entries 4, 5, 9). For finite operands `FDIV`
writes the float nearest to the quotient and `FMOD` exactly p - q * trunc(p / q) with the dividend's sign bit. A
quotient that is no NaN has the operands' signs divided; an infinite dividend gives an infinity, and a NaN by an
infinite divisor; an infinite divisor gives a zero for a finite dividend. The remainder of an infinite dividend is a
NaN, and an infinite divisor leaves a finite dividend. A NaN operand gives a NaN. -/
def Obligations.FloatDivision : Prop :=
  ∀ (s : State) (r1 : Reg),
    let a := s.reg r1
    let divides (quo rem : Instr) (b : Word) := b ≠ 0x00000000 → b ≠ 0x80000000 →
      ∃ q r, Writes quo s r1 q ∧ Writes rem s r1 r ∧
        (IsFinite a → IsFinite b →
          RoundsTo (floatValue a / floatValue b) q ∧ IsFinite r ∧ r.getLsbD 31 = a.getLsbD 31 ∧
          ∃ n : Int, floatValue r = floatValue a - floatValue b * n ∧
            |(n : ℚ)| ≤ |floatValue a / floatValue b| ∧ |floatValue a / floatValue b| < |(n : ℚ)| + 1 ∧
            0 ≤ (n : ℚ) * (floatValue a / floatValue b)) ∧
        (IsNaN a ∨ IsNaN b → IsNaN q ∧ IsNaN r) ∧
        (¬ IsNaN q → q.getLsbD 31 = (a.getLsbD 31 != b.getLsbD 31)) ∧
        (IsInfinity a → IsNaN r ∧ (IsFinite b → IsInfinity q) ∧ (IsInfinity b → IsNaN q)) ∧
        (IsInfinity b → IsFinite a → r = a ∧ (q = 0x00000000 ∨ q = 0x80000000))
    (∀ b, divides (.fdivImm r1 b) (.fmodImm r1 b) b) ∧
    ∀ r2, divides (.fdivReg r1 r2) (.fmodReg r1 r2) (s.reg r2)

/-- `FSGN` inverts bit 31 and `FABS` clears it, for every word, and the other bits stay (R221, R224; entry 4). -/
def Obligations.FloatSignBit : Prop :=
  ∀ (s : State) (r1 : Reg), ∃ v u, Writes (.fsgn r1) s r1 v ∧ Writes (.fabs r1) s r1 u ∧
    v.getLsbD 31 = !(s.reg r1).getLsbD 31 ∧ u.getLsbD 31 = false ∧
    ∀ k < 31, v.getLsbD k = (s.reg r1).getLsbD k ∧ u.getLsbD k = (s.reg r1).getLsbD k

/-- `FMIN` and `FMAX` write one of the two operand words: the second where it is the lesser (the greater), else the
first; so the first where the two are equal or one is a NaN (R222, R223; entries 4, 6). -/
def Obligations.FloatMinMax : Prop :=
  ∀ (s : State) (r1 : Reg),
    let ordered (b : Word) : Prop := ¬ IsNaN (s.reg r1) ∧ ¬ IsNaN b
    let second (i : Instr) (p : Prop) (b : Word) := (p → Writes i s r1 b) ∧ (¬ p → Writes i s r1 (s.reg r1))
    (∀ b, second (.fminImm r1 b) (ordered b ∧ extendedValue b < extendedValue (s.reg r1)) b ∧
      second (.fmaxImm r1 b) (ordered b ∧ extendedValue b > extendedValue (s.reg r1)) b) ∧
    ∀ r2, second (.fminReg r1 r2) (ordered (s.reg r2) ∧ extendedValue (s.reg r2) < extendedValue (s.reg r1))
        (s.reg r2) ∧
      second (.fmaxReg r1 r2) (ordered (s.reg r2) ∧ extendedValue (s.reg r2) > extendedValue (s.reg r1)) (s.reg r2)

/-! ### Extended float operations (spec/48_float_extended.md) -/

/-- `FLR`, `CEIL` and `ROUND` write the integer-valued float below, above and nearest (halfway cases away from zero),
with the operand's sign bit; an infinity or a NaN is unchanged (R231 to R233; entries 4, 7, 8). -/
def Obligations.FloatToIntegralValue : Prop :=
  ∀ (s : State) (r1 : Reg),
    let x := floatValue (s.reg r1)
    let integral (i : Instr) (n : Int) := ∃ v, Writes i s r1 v ∧
      (IsFinite (s.reg r1) → IsFinite v ∧ floatValue v = n ∧ v.getLsbD 31 = (s.reg r1).getLsbD 31) ∧
      (¬ IsFinite (s.reg r1) → v = s.reg r1)
    integral (.flr r1) ⌊x⌋ ∧ integral (.ceil r1) ⌈x⌉ ∧
    integral (.round r1) (if 0 ≤ x then ⌊x + 1 / 2⌋ else ⌈x - 1 / 2⌉)

/-- `SIN` completes for every operand, and `LOG` and `POW` do where no error is named; what they write is free but for
these values: a NaN for the sine of an infinity or a NaN and the logarithm of a NaN, infinity for the logarithm of
infinity, 1.0 for the power 0.0, an infinity for a negative power of a zero (R234, R237, R238; entries 5, 10, 11). -/
def Obligations.SinLogPowComplete : Prop :=
  ∀ (s : State) (r1 r2 : Reg),
    (∃ v, Writes (.sin r1) s r1 v ∧ (¬ IsFinite (s.reg r1) → IsNaN v)) ∧
    (IsNaN (s.reg r1) ∨ 0 < extendedValue (s.reg r1) → ∃ v, Writes (.log r1) s r1 v ∧
      (IsNaN (s.reg r1) → IsNaN v) ∧ (s.reg r1 = 0x7F800000 → v = 0x7F800000)) ∧
    (IsNaN (s.reg r1) ∨ (0 : WithBot (WithTop ℚ)) ≤ extendedValue (s.reg r1) ∨ IsInfinity (s.reg r2) ∨
        (IsFinite (s.reg r2) ∧ ∃ n : Int, floatValue (s.reg r2) = n) → ∃ v, Writes (.pow r1 r2) s r1 v ∧
      (s.reg r2 = 0x00000000 ∨ s.reg r2 = 0x80000000 → v = 0x3F800000) ∧
      (s.reg r1 = 0x00000000 ∨ s.reg r1 = 0x80000000 → ¬ IsNaN (s.reg r2) → extendedValue (s.reg r2) < 0 →
        IsInfinity v))

/-- `ACOS` of a float from -1.0 to 1.0 writes a float in [0, pi] (R235). `ATAN2` of floats that are no NaN and not both
zero writes a float in [-pi, pi] of the vector's quadrant (R236): zero where Vy is zero and Vx > 0, else with the sign of
Vy; of a size at most pi/2 for Vx > 0 and at least pi/2 for Vx < 0; and, up to the last place, pi/2 where Vx is zero, pi
where Vy is zero and Vx < 0, pi/4 where both are equal and positive, 3pi/4 where both are equal and negative. `ATAN2` of
a NaN completes with a free word. Angles are the floats nearest to them (entries 4, 10, 11). -/
def Obligations.AcosAtan2Ranges : Prop :=
  ∀ (s : State) (r1 r2 : Reg),
    let y := s.reg r1
    let x := s.reg r2
    let isZero (w : Word) : Prop := w = 0x00000000 ∨ w = 0x80000000
    (IsFinite y → |floatValue y| ≤ 1 →
      ∃ v, Writes (.acos r1) s r1 v ∧ IsFinite v ∧ 0 ≤ floatValue v ∧ floatValue v ≤ floatValue 0x40490FDB) ∧
    (¬ (isZero y ∧ isZero x) → ∃ v, Writes (.atan2 r1 r2) s r1 v ∧
      (¬ IsNaN y → ¬ IsNaN x →
        let size : Word := v &&& 0x7FFFFFFF
        IsFinite v ∧ |floatValue v| ≤ floatValue 0x40490FDB ∧
        (isZero y → extendedValue x > 0 → floatValue v = 0) ∧
        (¬ (isZero y ∧ extendedValue x > 0) → v.getLsbD 31 = y.getLsbD 31) ∧
        (extendedValue x > 0 → |floatValue v| ≤ floatValue 0x3FC90FDB) ∧
        (extendedValue x < 0 → floatValue 0x3FC90FDB ≤ |floatValue v|) ∧
        (isZero x → size ∈ [0x3FC90FDA, 0x3FC90FDB, 0x3FC90FDC]) ∧
        (isZero y → extendedValue x < 0 → size ∈ [0x40490FDA, 0x40490FDB]) ∧
        (y = x → extendedValue x > 0 → size ∈ [0x3F490FDA, 0x3F490FDB, 0x3F490FDC]) ∧
        (y = x → extendedValue x < 0 → size ∈ [0x4016CBE3, 0x4016CBE4, 0x4016CBE5])))

/-! ### Hardware errors (spec/60_exceptions.md) -/

/-- The response to each of the eleven errors, from every state (R251 to R262): the code in R0, `pc`, `IR` and `Imm` in
R1 to R3, BP and SP at the last RAM address, `pc` at the handler; the rest, memory and the flags included, as before. -/
def Obligations.HardwareErrorResponse : Prop :=
  ∀ (s : State) (e : HardwareError), ∃ t, raise e s = .next t ∧ ErrorTaken e s t ∧ SameMemory s t ∧ NoRequest s t

/-- The mathematical errors: division by zero (either zero for floats), an arc cosine outside [-1, 1] or of a NaN, an
arc tangent of two zeros, a logarithm of a number not above zero, a power of a negative base with an exponent that is
no integer. Nothing changes before the response (R257 to R261, R264; entries 4, 10). -/
def Obligations.MathematicalErrors : Prop :=
  ∀ (s : State) (r1 r2 : Reg) (b : Word),
    (Raises (.idivImm r1 0) s .divisionError ∧ Raises (.imodImm r1 0) s .divisionError) ∧
    (s.reg r2 = 0 → Raises (.idivReg r1 r2) s .divisionError ∧ Raises (.imodReg r1 r2) s .divisionError) ∧
    (b = 0x00000000 ∨ b = 0x80000000 →
      Raises (.fdivImm r1 b) s .divisionError ∧ Raises (.fmodImm r1 b) s .divisionError) ∧
    (s.reg r2 = 0x00000000 ∨ s.reg r2 = 0x80000000 →
      Raises (.fdivReg r1 r2) s .divisionError ∧ Raises (.fmodReg r1 r2) s .divisionError) ∧
    (IsNaN (s.reg r1) ∨ IsInfinity (s.reg r1) ∨ 1 < |floatValue (s.reg r1)| → Raises (.acos r1) s .arcCosineError) ∧
    ((s.reg r1 = 0x00000000 ∨ s.reg r1 = 0x80000000) ∧ (s.reg r2 = 0x00000000 ∨ s.reg r2 = 0x80000000) →
      Raises (.atan2 r1 r2) s .arcTangent2Error) ∧
    (¬ IsNaN (s.reg r1) → extendedValue (s.reg r1) ≤ 0 → Raises (.log r1) s .logarithmError) ∧
    (¬ IsNaN (s.reg r1) → extendedValue (s.reg r1) < 0 →
      IsNaN (s.reg r2) ∨ (IsFinite (s.reg r2) ∧ ∀ n : Int, floatValue (s.reg r2) ≠ n) →
      Raises (.pow r1 r2) s .powerError)

/-- A memory or port request of `MOV`, `IN` or `OUT` that fails takes error 0, 1, 2 or 3, and nothing changes before
the response (R251 to R254, R264; entry 16). -/
def Obligations.BusErrorsOfMoves : Prop :=
  ∀ (s : State) (r1 r2 : Reg) (imm : Word) (port : Nat),
    let raises (i : Instr) (e : HardwareError) (q : Request) :=
      Completes i s fun t => ErrorTaken e s t ∧ SameMemory s t ∧ Asked q none s t
    let sum (r : Reg) : Word := BitVec.ofNat 32 ((s.reg r).toNat + imm.toNat)
    ((s.busRead imm).1 = none → raises (.movRegMemImm r1 imm) .invalidMemoryRead (.memRead imm)) ∧
    ((s.busRead (s.reg r2)).1 = none →
      raises (.movRegMemReg r1 r2) .invalidMemoryRead (.memRead (s.reg r2))) ∧
    ((s.busRead (sum r2)).1 = none →
      raises (.movRegMemRegImm r1 r2 imm) .invalidMemoryRead (.memRead (sum r2))) ∧
    ((s.busWrite imm (s.reg r2)).1 = false →
      raises (.movMemImmReg r2 imm) .invalidMemoryWrite (.memWrite imm (s.reg r2))) ∧
    ((s.busWrite (s.reg r1) (s.reg r2)).1 = false →
      raises (.movMemRegReg r1 r2) .invalidMemoryWrite (.memWrite (s.reg r1) (s.reg r2))) ∧
    ((s.busWrite (sum r1) (s.reg r2)).1 = false →
      raises (.movMemRegImmReg r1 r2 imm) .invalidMemoryWrite (.memWrite (sum r1) (s.reg r2))) ∧
    (s.answerTo (.portRead port) = none → raises (.inPort r1 port) .invalidPortRead (.portRead port)) ∧
    (s.answerTo (.portWrite port imm) = none →
      raises (.outImm port imm) .invalidPortWrite (.portWrite port imm)) ∧
    (s.answerTo (.portWrite port (s.reg r1)) = none →
      raises (.outReg port r1) .invalidPortWrite (.portWrite port (s.reg r1)))

/-- `PUSH` and `CALL`: error 1 where the store fails, with memory as before; else error 4 where SP is negative after
the decrement, with the word stored. `POP` and `RET`: error 5 where SP is above 0x003FFFFF after the increment, with no
request made; else error 0 where the read fails (R255, R256, R264, R265; entry 18). `CALL` does not reach its target
on either. -/
def Obligations.StackErrors : Prop :=
  ∀ (s : State) (r1 : Reg) (imm : Word),
    let pushes (i : Instr) (v : Word) :=
      ((s.busWrite (s.reg 15) v).1 = false → Completes i s fun t =>
        ErrorTaken .invalidMemoryWrite s t ∧ SameMemory s t ∧ Asked (.memWrite (s.reg 15) v) none s t) ∧
      ((s.busWrite (s.reg 15) v).1 = true → (s.reg 15 - 1).toInt < 0 → Completes i s fun t =>
        ErrorTaken .stackOverflow s t ∧ StoredWord (s.reg 15) v s t)
    let pops (i : Instr) :=
      ((s.reg 15 + 1).toInt > 0x003FFFFF → Raises i s .stackUnderflow) ∧
      ((s.reg 15 + 1).toInt ≤ 0x003FFFFF → (s.busRead (s.reg 15 + 1)).1 = none → Completes i s fun t =>
        ErrorTaken .invalidMemoryRead s t ∧ SameMemory s t ∧ Asked (.memRead (s.reg 15 + 1)) none s t)
    pushes (.push r1) (s.reg r1) ∧ pushes (.callImm imm) s.pc ∧ pushes (.callReg r1) s.pc ∧
    pops (.pop r1) ∧ pops .ret

/-- A string iteration whose request fails takes error 0 or 1 with memory and R4 to R13 as before, so with CR, SR and
DR where the last completed iteration left them (R170, R264, R265; entry 18). -/
def Obligations.StringErrors : Prop :=
  ∀ (s : State) (r1 : Reg) (v : Word),
    let raises (i : Instr) (e : HardwareError) := Completes i s fun t => ErrorTaken e s t ∧ SameMemory s t
    ((s.busRead (s.reg 12)).1 = none → raises .movs .invalidMemoryRead) ∧
    ((s.busRead (s.reg 12)).1 = some v → ((s.busRead (s.reg 12)).2.busWrite (s.reg 13) v).1 = false →
      raises .movs .invalidMemoryWrite) ∧
    ((s.busWrite (s.reg 13) (s.reg 12)).1 = false → raises .sets .invalidMemoryWrite) ∧
    ((s.busRead (s.reg 13)).1 = none → raises (.cmps r1) .invalidMemoryRead) ∧
    ((s.busRead (s.reg 13)).1 = some v → ((s.busRead (s.reg 13)).2.busRead (s.reg 12)).1 = none →
      raises (.cmps r1) .invalidMemoryRead)
end

