-- ==== Sys2Proof/Laws/Encoding.lean ====
section
/-! SUPPORT. What each field of a packed word reads as, so that no proof about an encoding unfolds the packing. -/

namespace Sys2Proof

theorem opcodeNumber_lt (op : Opcode) : opcodeNumber op < 64 := by cases op <;> decide

/-- A packed word as a number. -/
theorem packWord_toNat (op : Opcode) (useimm r1 r2 mode port : Nat) (hu : useimm < 2) (h1 : r1 < 16) (h2 : r2 < 16)
    (hm : mode < 8) (hp : port < 16384) :
    (packWord op useimm r1 r2 mode port).toNat =
      opcodeNumber op * 67108864 + useimm * 33554432 + r1 * 2097152 + r2 * 131072 + mode * 16384 + port := by
  have := opcodeNumber_lt op
  simp only [packWord, fieldLayout, Field.put, BitVec.toNat_ofNat]
  omega

variable (op : Opcode) {useimm r1 r2 mode port : Nat} (hu : useimm < 2) (h1 : r1 < 16) (h2 : r2 < 16)
  (hm : mode < 8) (hp : port < 16384)

include hu h1 h2 hm hp

theorem opcode_packWord : fieldLayout.opcode.get (packWord op useimm r1 r2 mode port) = opcodeNumber op := by
  have := opcodeNumber_lt op
  simp only [Field.get, packWord_toNat op useimm r1 r2 mode port hu h1 h2 hm hp, fieldLayout]
  omega

theorem usesImmediate_packWord : usesImmediate (packWord op useimm r1 r2 mode port) = (useimm == 1) := by
  have := opcodeNumber_lt op
  have e : fieldLayout.useimm.get (packWord op useimm r1 r2 mode port) = useimm := by
    simp only [Field.get, packWord_toNat op useimm r1 r2 mode port hu h1 h2 hm hp, fieldLayout]
    omega
  rw [usesImmediate, e]

theorem register1_packWord : register1 (packWord op useimm r1 r2 mode port) = Fin.ofNat 16 r1 := by
  have := opcodeNumber_lt op
  have e : fieldLayout.r1.get (packWord op useimm r1 r2 mode port) = r1 := by
    simp only [Field.get, packWord_toNat op useimm r1 r2 mode port hu h1 h2 hm hp, fieldLayout]
    omega
  rw [register1, e]

theorem register2_packWord : register2 (packWord op useimm r1 r2 mode port) = Fin.ofNat 16 r2 := by
  have := opcodeNumber_lt op
  have e : fieldLayout.r2.get (packWord op useimm r1 r2 mode port) = r2 := by
    simp only [Field.get, packWord_toNat op useimm r1 r2 mode port hu h1 h2 hm hp, fieldLayout]
    omega
  rw [register2, e]

theorem addressingMode_packWord : addressingMode (packWord op useimm r1 r2 mode port) = mode := by
  have := opcodeNumber_lt op
  simp only [addressingMode, Field.get, packWord_toNat op useimm r1 r2 mode port hu h1 h2 hm hp, fieldLayout]
  omega

theorem portNumber_packWord : portNumber (packWord op useimm r1 r2 mode port) = port := by
  have := opcodeNumber_lt op
  simp only [portNumber, Field.get, packWord_toNat op useimm r1 r2 mode port hu h1 h2 hm hp, fieldLayout]
  omega

omit hu h1 h2 hm hp

/-- The opcode of a number is the one whose number it is. -/
theorem opcodeOf_number (w : Word) (h : fieldLayout.opcode.get w = opcodeNumber op) : opcodeOf w = op := by
  rw [opcodeOf, h]
  cases op <;> rfl

end Sys2Proof
end

