-- ==== Sys2Proof/Laws/State.lean ====
section
/-! SUPPORT. The small lemmas of the state: one per field per update, true by `rfl`, so that no proof unfolds a record
update; then what reading a register or a memory word gives after each update. -/

namespace Sys2Proof.Machine

/-! ### `State.setReg` -/

@[simp] theorem State.setReg_regs (s : State) (r : Reg) (v : Word) :
    (s.setReg r v).regs = s.regs.set r v := rfl
@[simp] theorem State.setReg_pc (s : State) (r : Reg) (v : Word) :
    (s.setReg r v).pc = s.pc := rfl
@[simp] theorem State.setReg_ir (s : State) (r : Reg) (v : Word) :
    (s.setReg r v).ir = s.ir := rfl
@[simp] theorem State.setReg_imm (s : State) (r : Reg) (v : Word) :
    (s.setReg r v).imm = s.imm := rfl
@[simp] theorem State.setReg_halt (s : State) (r : Reg) (v : Word) :
    (s.setReg r v).halt = s.halt := rfl
@[simp] theorem State.setReg_wait (s : State) (r : Reg) (v : Word) :
    (s.setReg r v).wait = s.wait := rfl
@[simp] theorem State.setReg_mem (s : State) (r : Reg) (v : Word) :
    (s.setReg r v).mem = s.mem := rfl
@[simp] theorem State.setReg_signals (s : State) (r : Reg) (v : Word) :
    (s.setReg r v).signals = s.signals := rfl
@[simp] theorem State.setReg_answers (s : State) (r : Reg) (v : Word) :
    (s.setReg r v).answers = s.answers := rfl
@[simp] theorem State.setReg_history (s : State) (r : Reg) (v : Word) :
    (s.setReg r v).history = s.history := rfl
@[simp] theorem State.setReg_peek (s : State) (r : Reg) (v : Word) (c : Word) :
    (s.setReg r v).peek c = s.peek c := rfl

/-! ### `State.setPc` -/

@[simp] theorem State.setPc_regs (s : State) (v : Word) :
    (s.setPc v).regs = s.regs := rfl
@[simp] theorem State.setPc_pc (s : State) (v : Word) :
    (s.setPc v).pc = v := rfl
@[simp] theorem State.setPc_ir (s : State) (v : Word) :
    (s.setPc v).ir = s.ir := rfl
@[simp] theorem State.setPc_imm (s : State) (v : Word) :
    (s.setPc v).imm = s.imm := rfl
@[simp] theorem State.setPc_halt (s : State) (v : Word) :
    (s.setPc v).halt = s.halt := rfl
@[simp] theorem State.setPc_wait (s : State) (v : Word) :
    (s.setPc v).wait = s.wait := rfl
@[simp] theorem State.setPc_mem (s : State) (v : Word) :
    (s.setPc v).mem = s.mem := rfl
@[simp] theorem State.setPc_signals (s : State) (v : Word) :
    (s.setPc v).signals = s.signals := rfl
@[simp] theorem State.setPc_answers (s : State) (v : Word) :
    (s.setPc v).answers = s.answers := rfl
@[simp] theorem State.setPc_history (s : State) (v : Word) :
    (s.setPc v).history = s.history := rfl
@[simp] theorem State.setPc_peek (s : State) (v : Word) (c : Word) :
    (s.setPc v).peek c = s.peek c := rfl
@[simp] theorem State.setPc_reg (s : State) (v : Word) (q : Reg) :
    (s.setPc v).reg q = s.reg q := rfl

/-! ### `State.record` -/

@[simp] theorem State.record_regs (s : State) (e : Event) :
    (s.record e).regs = s.regs := rfl
@[simp] theorem State.record_pc (s : State) (e : Event) :
    (s.record e).pc = s.pc := rfl
@[simp] theorem State.record_ir (s : State) (e : Event) :
    (s.record e).ir = s.ir := rfl
@[simp] theorem State.record_imm (s : State) (e : Event) :
    (s.record e).imm = s.imm := rfl
@[simp] theorem State.record_halt (s : State) (e : Event) :
    (s.record e).halt = s.halt := rfl
@[simp] theorem State.record_wait (s : State) (e : Event) :
    (s.record e).wait = s.wait := rfl
@[simp] theorem State.record_mem (s : State) (e : Event) :
    (s.record e).mem = s.mem := rfl
@[simp] theorem State.record_signals (s : State) (e : Event) :
    (s.record e).signals = s.signals := rfl
@[simp] theorem State.record_answers (s : State) (e : Event) :
    (s.record e).answers = s.answers := rfl
@[simp] theorem State.record_history (s : State) (e : Event) :
    (s.record e).history = e :: s.history := rfl
@[simp] theorem State.record_peek (s : State) (e : Event) (c : Word) :
    (s.record e).peek c = s.peek c := rfl
@[simp] theorem State.record_reg (s : State) (e : Event) (q : Reg) :
    (s.record e).reg q = s.reg q := rfl

/-! ### `State.poke` -/

@[simp] theorem State.poke_regs (s : State) (a v : Word) :
    (s.poke a v).regs = s.regs := rfl
@[simp] theorem State.poke_pc (s : State) (a v : Word) :
    (s.poke a v).pc = s.pc := rfl
@[simp] theorem State.poke_ir (s : State) (a v : Word) :
    (s.poke a v).ir = s.ir := rfl
@[simp] theorem State.poke_imm (s : State) (a v : Word) :
    (s.poke a v).imm = s.imm := rfl
@[simp] theorem State.poke_halt (s : State) (a v : Word) :
    (s.poke a v).halt = s.halt := rfl
@[simp] theorem State.poke_wait (s : State) (a v : Word) :
    (s.poke a v).wait = s.wait := rfl
@[simp] theorem State.poke_mem (s : State) (a v : Word) :
    (s.poke a v).mem = s.mem.store a.toNat v := rfl
@[simp] theorem State.poke_signals (s : State) (a v : Word) :
    (s.poke a v).signals = s.signals := rfl
@[simp] theorem State.poke_answers (s : State) (a v : Word) :
    (s.poke a v).answers = s.answers := rfl
@[simp] theorem State.poke_history (s : State) (a v : Word) :
    (s.poke a v).history = s.history := rfl
@[simp] theorem State.poke_reg (s : State) (a v : Word) (q : Reg) :
    (s.poke a v).reg q = s.reg q := rfl

/-! ### `State.setHalt` -/

@[simp] theorem State.setHalt_regs (s : State) :
    (s.setHalt).regs = s.regs := rfl
@[simp] theorem State.setHalt_pc (s : State) :
    (s.setHalt).pc = s.pc := rfl
@[simp] theorem State.setHalt_ir (s : State) :
    (s.setHalt).ir = s.ir := rfl
@[simp] theorem State.setHalt_imm (s : State) :
    (s.setHalt).imm = s.imm := rfl
@[simp] theorem State.setHalt_halt (s : State) :
    (s.setHalt).halt = true := rfl
@[simp] theorem State.setHalt_wait (s : State) :
    (s.setHalt).wait = s.wait := rfl
@[simp] theorem State.setHalt_mem (s : State) :
    (s.setHalt).mem = s.mem := rfl
@[simp] theorem State.setHalt_signals (s : State) :
    (s.setHalt).signals = s.signals := rfl
@[simp] theorem State.setHalt_answers (s : State) :
    (s.setHalt).answers = s.answers := rfl
@[simp] theorem State.setHalt_history (s : State) :
    (s.setHalt).history = s.history := rfl
@[simp] theorem State.setHalt_peek (s : State) (c : Word) :
    (s.setHalt).peek c = s.peek c := rfl
@[simp] theorem State.setHalt_reg (s : State) (q : Reg) :
    (s.setHalt).reg q = s.reg q := rfl

/-! ### `State.setWait` -/

@[simp] theorem State.setWait_regs (s : State) :
    (s.setWait).regs = s.regs := rfl
@[simp] theorem State.setWait_pc (s : State) :
    (s.setWait).pc = s.pc := rfl
@[simp] theorem State.setWait_ir (s : State) :
    (s.setWait).ir = s.ir := rfl
@[simp] theorem State.setWait_imm (s : State) :
    (s.setWait).imm = s.imm := rfl
@[simp] theorem State.setWait_halt (s : State) :
    (s.setWait).halt = s.halt := rfl
@[simp] theorem State.setWait_wait (s : State) :
    (s.setWait).wait = true := rfl
@[simp] theorem State.setWait_mem (s : State) :
    (s.setWait).mem = s.mem := rfl
@[simp] theorem State.setWait_signals (s : State) :
    (s.setWait).signals = s.signals := rfl
@[simp] theorem State.setWait_answers (s : State) :
    (s.setWait).answers = s.answers := rfl
@[simp] theorem State.setWait_history (s : State) :
    (s.setWait).history = s.history := rfl
@[simp] theorem State.setWait_peek (s : State) (c : Word) :
    (s.setWait).peek c = s.peek c := rfl
@[simp] theorem State.setWait_reg (s : State) (q : Reg) :
    (s.setWait).reg q = s.reg q := rfl

/-! ### `State.frameSignal` -/

@[simp] theorem State.frameSignal_regs (s : State) :
    (s.frameSignal).regs = s.regs := rfl
@[simp] theorem State.frameSignal_pc (s : State) :
    (s.frameSignal).pc = s.pc := rfl
@[simp] theorem State.frameSignal_ir (s : State) :
    (s.frameSignal).ir = s.ir := rfl
@[simp] theorem State.frameSignal_imm (s : State) :
    (s.frameSignal).imm = s.imm := rfl
@[simp] theorem State.frameSignal_halt (s : State) :
    (s.frameSignal).halt = s.halt := rfl
@[simp] theorem State.frameSignal_wait (s : State) :
    (s.frameSignal).wait = false := rfl
@[simp] theorem State.frameSignal_mem (s : State) :
    (s.frameSignal).mem = s.mem := rfl
@[simp] theorem State.frameSignal_signals (s : State) :
    (s.frameSignal).signals = s.signals := rfl
@[simp] theorem State.frameSignal_answers (s : State) :
    (s.frameSignal).answers = s.answers := rfl
@[simp] theorem State.frameSignal_history (s : State) :
    (s.frameSignal).history = s.history := rfl
@[simp] theorem State.frameSignal_peek (s : State) (c : Word) :
    (s.frameSignal).peek c = s.peek c := rfl
@[simp] theorem State.frameSignal_reg (s : State) (q : Reg) :
    (s.frameSignal).reg q = s.reg q := rfl

/-! ### `State.raise` -/

@[simp] theorem State.raise_pc (s : State) (e : HardwareError) :
    (s.raise e).pc = Config.errorEntry := rfl
@[simp] theorem State.raise_ir (s : State) (e : HardwareError) :
    (s.raise e).ir = s.ir := rfl
@[simp] theorem State.raise_imm (s : State) (e : HardwareError) :
    (s.raise e).imm = s.imm := rfl
@[simp] theorem State.raise_halt (s : State) (e : HardwareError) :
    (s.raise e).halt = s.halt := rfl
@[simp] theorem State.raise_wait (s : State) (e : HardwareError) :
    (s.raise e).wait = s.wait := rfl
@[simp] theorem State.raise_mem (s : State) (e : HardwareError) :
    (s.raise e).mem = s.mem := rfl
@[simp] theorem State.raise_signals (s : State) (e : HardwareError) :
    (s.raise e).signals = s.signals := rfl
@[simp] theorem State.raise_answers (s : State) (e : HardwareError) :
    (s.raise e).answers = s.answers := rfl
@[simp] theorem State.raise_history (s : State) (e : HardwareError) :
    (s.raise e).history = s.history := rfl
@[simp] theorem State.raise_peek (s : State) (e : HardwareError) (c : Word) :
    (s.raise e).peek c = s.peek c := rfl

/-! ### `State.resetSignal` -/

@[simp] theorem State.resetSignal_regs (s : State) :
    (s.resetSignal).regs = resetRegs := rfl
@[simp] theorem State.resetSignal_pc (s : State) :
    (s.resetSignal).pc = Config.resetEntry := rfl
@[simp] theorem State.resetSignal_ir (s : State) :
    (s.resetSignal).ir = 0 := rfl
@[simp] theorem State.resetSignal_imm (s : State) :
    (s.resetSignal).imm = 0 := rfl
@[simp] theorem State.resetSignal_halt (s : State) :
    (s.resetSignal).halt = false := rfl
@[simp] theorem State.resetSignal_wait (s : State) :
    (s.resetSignal).wait = false := rfl
@[simp] theorem State.resetSignal_mem (s : State) :
    (s.resetSignal).mem = s.mem := rfl
@[simp] theorem State.resetSignal_signals (s : State) :
    (s.resetSignal).signals = s.signals := rfl
@[simp] theorem State.resetSignal_answers (s : State) :
    (s.resetSignal).answers = s.answers := rfl
@[simp] theorem State.resetSignal_history (s : State) :
    (s.resetSignal).history = s.history := rfl
@[simp] theorem State.resetSignal_peek (s : State) (c : Word) :
    (s.resetSignal).peek c = s.peek c := rfl

/-! ### Reading a register after a write -/

/-- A register reads as the value last written to it, and every other register as before (spec/10_state.md R20). -/
theorem State.reg_setReg (s : State) (r q : Reg) (v : Word) :
    (s.setReg r v).reg q = if q = r then v else s.reg q := by
  simp only [State.reg, State.setReg, Vector.get_eq_getElem, Vector.getElem_set]
  by_cases h : q = r
  · simp [h]
  · have : ¬ (r : Nat) = q := fun e => h (Fin.ext e.symm)
    simp [h, this]

@[simp] theorem State.reg_setReg_same (s : State) (r : Reg) (v : Word) : (s.setReg r v).reg r = v := by
  simp [State.reg_setReg]

theorem State.reg_setReg_ne (s : State) {r q : Reg} (v : Word) (h : q ≠ r) : (s.setReg r v).reg q = s.reg q := by
  simp [State.reg_setReg, h]

/-- Two states are equal when their registers read alike and their other fields are equal. -/
theorem State.ext_reg {s t : State} (hr : ∀ q, s.reg q = t.reg q) (h1 : s.pc = t.pc) (h2 : s.ir = t.ir)
    (h3 : s.imm = t.imm) (h4 : s.halt = t.halt) (h5 : s.wait = t.wait) (h6 : s.mem = t.mem)
    (h7 : s.signals = t.signals) (h8 : s.answers = t.answers) (h9 : s.history = t.history) : s = t := by
  obtain ⟨r, _, _, _, _, _, _, _, _, _⟩ := s
  obtain ⟨r', _, _, _, _, _, _, _, _, _⟩ := t
  have : r = r' := Vector.ext fun i hi => hr ⟨i, hi⟩
  simp_all

/-- The registers after the hardware error response (spec/60_exceptions.md R262). -/
theorem State.reg_raise (s : State) (e : HardwareError) (q : Reg) :
    (s.raise e).reg q =
      if q = 0 then e.code else if q = 1 then s.pc else if q = 2 then s.ir else if q = 3 then s.imm
      else if q = BP ∨ q = SP then Config.stackTop else s.reg q := by
  simp only [State.raise, State.setPc_reg, State.reg_setReg, State.setReg_pc, State.setReg_ir, State.setReg_imm]
  fin_cases q <;> simp [BP, SP]

/-- The registers after the reset response (R269). -/
theorem State.reg_resetSignal (s : State) (q : Reg) :
    s.resetSignal.reg q = if q = BP ∨ q = SP then Config.stackTop else 0 := by
  fin_cases q <;> rfl

/-! ### The fetch's own updates -/

@[simp] theorem State.peek_mk (s : State) (r p i m h w g a y) (c : Word) :
    State.peek ⟨r, p, i, m, h, w, s.mem, g, a, y⟩ c = s.peek c := rfl

@[simp] theorem State.reg_mk (s : State) (p i m h w k g a y) (q : Reg) :
    State.reg ⟨s.regs, p, i, m, h, w, k, g, a, y⟩ q = s.reg q := rfl

end Sys2Proof.Machine
end

