-- ==== Sys2Proof/Laws/Memory.lean ====
section
/-! SUPPORT. The laws of memory: what a read gives after a write, and that every memory operation keeps the canonical
form `Memory.wf`. -/

namespace Sys2Proof.Machine

@[simp] theorem Memory.lookup_nil (a : Nat) : Memory.lookup [] a = none := rfl

theorem Memory.lookup_cons (b : Nat) (w : Word) (m : Memory) (a : Nat) :
    Memory.lookup ((b, w) :: m) a = if a = b then some w else Memory.lookup m a := rfl

/-- A listed address reads as the word stored there; every other address as before. -/
theorem Memory.lookup_store (m : Memory) (a c : Nat) (v : Word) :
    (Memory.store m a v).lookup c = if c = a then some v else m.lookup c := by
  induction m with
  | nil => simp [Memory.store, Memory.lookup_cons]
  | cons p m ih =>
    obtain ⟨b, w⟩ := p
    rw [Memory.store]
    split_ifs with h1 h2 <;> simp_all [Memory.lookup_cons]

/-- The canonical form from a lower bound, kept by a store above it. -/
theorem Memory.risesFrom_store (m : Memory) (lo a : Nat) (v : Word) (hlo : lo ≤ a) (ha : a < 2 ^ 32)
    (h : Memory.risesFrom lo m = true) : Memory.risesFrom lo (m.store a v) = true := by
  induction m generalizing lo with
  | nil => simp [Memory.store, Memory.risesFrom]; omega
  | cons p m ih =>
    obtain ⟨b, w⟩ := p
    simp only [Memory.risesFrom, Bool.and_eq_true, decide_eq_true_eq] at h
    rw [Memory.store]
    split_ifs with h1 h2
    · simp [Memory.risesFrom, h]; omega
    · subst h2; simp [Memory.risesFrom, h]; omega
    · simp only [Memory.risesFrom, Bool.and_eq_true, decide_eq_true_eq]
      exact ⟨h.1, ih (b + 1) (by omega) h.2⟩

/-- Every memory operation of the model is `poke`: it keeps the canonical form. -/
theorem State.wf_poke (s : State) (a v : Word) (h : s.mem.wf = true) : (s.poke a v).mem.wf = true :=
  Memory.risesFrom_store _ _ _ _ (Nat.zero_le _) a.isLt h

/-- The memory after reset is canonical. -/
theorem Memory.wf_reset : State.reset.mem.wf = true := rfl

/-- In the canonical form the list is determined by what it answers: equal memories are equal data. -/
theorem Memory.lookup_lt_none (m : Memory) (lo a : Nat) (h : Memory.risesFrom lo m = true) (ha : a < lo) :
    m.lookup a = none := by
  induction m generalizing lo with
  | nil => rfl
  | cons p m ih =>
    obtain ⟨b, w⟩ := p
    simp only [Memory.risesFrom, Bool.and_eq_true, decide_eq_true_eq] at h
    rw [Memory.lookup_cons, if_neg (by omega)]
    exact ih (b + 1) h.2 (by omega)

theorem Memory.eq_of_lookup (m n : Memory) (lo : Nat) (hm : Memory.risesFrom lo m = true)
    (hn : Memory.risesFrom lo n = true) (h : ∀ a, m.lookup a = n.lookup a) : m = n := by
  induction m generalizing n lo with
  | nil =>
    cases n with
    | nil => rfl
    | cons q n => obtain ⟨c, x⟩ := q; have := h c; simp [Memory.lookup_cons] at this
  | cons p m ih =>
    obtain ⟨b, w⟩ := p
    cases n with
    | nil => have := h b; simp [Memory.lookup_cons] at this
    | cons q n =>
      obtain ⟨c, x⟩ := q
      simp only [Memory.risesFrom, Bool.and_eq_true, decide_eq_true_eq] at hm hn
      have hbc : b = c := by
        rcases Nat.lt_trichotomy b c with hlt | heq | hgt
        · have := h b
          rw [Memory.lookup_cons, if_pos rfl, Memory.lookup_cons, if_neg (by omega),
            Memory.lookup_lt_none n (c + 1) b hn.2 (by omega)] at this
          cases this
        · exact heq
        · have := h c
          rw [Memory.lookup_cons, if_neg (by omega), Memory.lookup_cons, if_pos rfl,
            Memory.lookup_lt_none m (b + 1) c hm.2 (by omega)] at this
          cases this
      subst hbc
      have hw : w = x := by have := h b; simpa [Memory.lookup_cons] using this
      subst hw
      refine congrArg _ (ih n (b + 1) hm.2 hn.2 fun a => ?_)
      by_cases ha : a = b
      · subst ha
        rw [Memory.lookup_lt_none m (a + 1) a hm.2 (by omega), Memory.lookup_lt_none n (a + 1) a hn.2 (by omega)]
      · have := h a; simpa [Memory.lookup_cons, ha] using this

/-- What one word reads as after a poke (read after write, and every other address as before). -/
theorem State.peek_poke (s : State) (a v c : Word) :
    (s.poke a v).peek c = if c = a then some v else s.peek c := by
  unfold State.peek
  rw [State.poke_mem, Memory.lookup_store]
  by_cases h : c = a
  · simp [h]
  · have : ¬ c.toNat = a.toNat := fun e => h (BitVec.eq_of_toNat_eq e)
    simp [h, this]

/-- A RAM word can always be read without the environment (spec/20_memory.md R56). -/
theorem State.peek_ram (s : State) (a : Word) (h : inRam a = true) : ∃ w, s.peek a = some w := by
  unfold State.peek
  cases s.mem.lookup a.toNat with
  | some w => exact ⟨w, rfl⟩
  | none => simp [h]

end Sys2Proof.Machine
end

