-- ==== Sys2Proof/Laws/Ops.lean ====
section
/-! SUPPORT. One lemma for each thing a shared operation can do, so that no proof unfolds the operation: what a bus
request answers and leaves, and what the operations that can raise do on success and on failure. -/

namespace Sys2Proof.Machine

/-! ### Requests to the environment -/

@[simp] theorem State.ask_fst (s : State) (q : Request) : (s.ask q).1 = s.answerTo q := rfl

theorem State.answerTo_cons (s : State) (q : Request) (a : Option Word) (l : List (Option Word))
    (h : s.answers = a :: l) : s.answerTo q = a := by simp [State.answerTo, h]

@[simp] theorem State.ask_reg (s : State) (q : Request) (r : Reg) : (s.ask q).2.reg r = s.reg r := rfl
@[simp] theorem State.ask_regs (s : State) (q : Request) : (s.ask q).2.regs = s.regs := rfl
@[simp] theorem State.ask_pc (s : State) (q : Request) : (s.ask q).2.pc = s.pc := rfl
@[simp] theorem State.ask_ir (s : State) (q : Request) : (s.ask q).2.ir = s.ir := rfl
@[simp] theorem State.ask_imm (s : State) (q : Request) : (s.ask q).2.imm = s.imm := rfl
@[simp] theorem State.ask_halt (s : State) (q : Request) : (s.ask q).2.halt = s.halt := rfl
@[simp] theorem State.ask_wait (s : State) (q : Request) : (s.ask q).2.wait = s.wait := rfl
@[simp] theorem State.ask_mem (s : State) (q : Request) : (s.ask q).2.mem = s.mem := rfl
@[simp] theorem State.ask_signals (s : State) (q : Request) : (s.ask q).2.signals = s.signals := rfl
@[simp] theorem State.ask_answers (s : State) (q : Request) : (s.ask q).2.answers = s.answers.tail := rfl
@[simp] theorem State.ask_history (s : State) (q : Request) :
    (s.ask q).2.history = .request q (s.answerTo q) :: s.history := rfl
@[simp] theorem State.ask_peek (s : State) (q : Request) (c : Word) : (s.ask q).2.peek c = s.peek c := rfl

/-! ### A read request on the memory bus -/

/-- All that a read request does: a word that is known is answered without the environment. -/
theorem State.busRead_cases (s : State) (a : Word) :
    (∃ w, s.peek a = some w ∧ s.busRead a = (some w, s.record (.request (.memRead a) (some w)))) ∨
    (s.peek a = none ∧ s.busRead a = s.ask (.memRead a)) := by
  unfold State.busRead
  cases s.peek a with
  | some w => exact .inl ⟨w, rfl, rfl⟩
  | none => exact .inr ⟨rfl, rfl⟩

theorem State.busRead_known (s : State) (a w : Word) (h : s.peek a = some w) :
    s.busRead a = (some w, s.record (.request (.memRead a) (some w))) := by simp [State.busRead, h]

theorem State.busRead_unknown (s : State) (a : Word) (h : s.peek a = none) :
    s.busRead a = s.ask (.memRead a) := by simp [State.busRead, h]

@[simp] theorem State.busRead_reg (s : State) (a : Word) (r : Reg) : (s.busRead a).2.reg r = s.reg r := by
  obtain ⟨w, -, h⟩ | ⟨-, h⟩ := s.busRead_cases a <;> simp [h]
@[simp] theorem State.busRead_regs (s : State) (a : Word) : (s.busRead a).2.regs = s.regs := by
  obtain ⟨w, -, h⟩ | ⟨-, h⟩ := s.busRead_cases a <;> simp [h]
@[simp] theorem State.busRead_pc (s : State) (a : Word) : (s.busRead a).2.pc = s.pc := by
  obtain ⟨w, -, h⟩ | ⟨-, h⟩ := s.busRead_cases a <;> simp [h]
@[simp] theorem State.busRead_ir (s : State) (a : Word) : (s.busRead a).2.ir = s.ir := by
  obtain ⟨w, -, h⟩ | ⟨-, h⟩ := s.busRead_cases a <;> simp [h]
@[simp] theorem State.busRead_imm (s : State) (a : Word) : (s.busRead a).2.imm = s.imm := by
  obtain ⟨w, -, h⟩ | ⟨-, h⟩ := s.busRead_cases a <;> simp [h]
@[simp] theorem State.busRead_halt (s : State) (a : Word) : (s.busRead a).2.halt = s.halt := by
  obtain ⟨w, -, h⟩ | ⟨-, h⟩ := s.busRead_cases a <;> simp [h]
@[simp] theorem State.busRead_wait (s : State) (a : Word) : (s.busRead a).2.wait = s.wait := by
  obtain ⟨w, -, h⟩ | ⟨-, h⟩ := s.busRead_cases a <;> simp [h]
@[simp] theorem State.busRead_mem (s : State) (a : Word) : (s.busRead a).2.mem = s.mem := by
  obtain ⟨w, -, h⟩ | ⟨-, h⟩ := s.busRead_cases a <;> simp [h]
@[simp] theorem State.busRead_signals (s : State) (a : Word) : (s.busRead a).2.signals = s.signals := by
  obtain ⟨w, -, h⟩ | ⟨-, h⟩ := s.busRead_cases a <;> simp [h]
@[simp] theorem State.busRead_peek (s : State) (a c : Word) : (s.busRead a).2.peek c = s.peek c := by
  obtain ⟨w, -, h⟩ | ⟨-, h⟩ := s.busRead_cases a <;> simp [h]
@[simp] theorem State.busRead_history (s : State) (a : Word) :
    (s.busRead a).2.history = .request (.memRead a) (s.busRead a).1 :: s.history := by
  obtain ⟨w, -, h⟩ | ⟨-, h⟩ := s.busRead_cases a <;> simp [h]

/-- What the bus answers depends on memory and the environment only. -/
theorem State.busRead_fst_congr {s t : State} (a : Word) (hm : s.mem = t.mem) (ha : s.answers = t.answers)
    (hh : s.history = t.history) : (s.busRead a).1 = (t.busRead a).1 := by
  have hp : s.peek a = t.peek a := by simp [State.peek, hm]
  unfold State.busRead
  rw [← hp]
  cases s.peek a with
  | some w => rfl
  | none => simp [State.answerTo, ha, hh]

@[simp] theorem State.busRead_setReg_fst (s : State) (r : Reg) (v a : Word) :
    ((s.setReg r v).busRead a).1 = (s.busRead a).1 := State.busRead_fst_congr a rfl rfl rfl

/-! ### A write request on the memory bus -/

/-- All that a write request does: RAM takes the word; outside RAM the environment decides, and only a listed word
changes. -/
theorem State.busWrite_cases (s : State) (a v : Word) :
    (inRam a = true ∧ s.busWrite a v = (true, (s.poke a v).record (.request (.memWrite a v) (some v)))) ∨
    (inRam a = false ∧ s.answerTo (.memWrite a v) = none ∧ s.busWrite a v = (false, (s.ask (.memWrite a v)).2)) ∨
    (inRam a = false ∧ (∃ x, s.answerTo (.memWrite a v) = some x) ∧ s.peek a = none ∧
      s.busWrite a v = (true, (s.ask (.memWrite a v)).2)) ∨
    (inRam a = false ∧ (∃ x, s.answerTo (.memWrite a v) = some x) ∧ (∃ w, s.peek a = some w) ∧
      s.busWrite a v = (true, (s.ask (.memWrite a v)).2.poke a v)) := by
  unfold State.busWrite State.peek
  cases hr : inRam a with
  | true => exact .inl ⟨rfl, rfl⟩
  | false =>
    refine .inr ?_
    simp only [State.ask]
    cases ha : s.answerTo (.memWrite a v) with
    | none => exact .inl ⟨by simp, by simp, by simp⟩
    | some x =>
      refine .inr ?_
      cases hl : s.mem.lookup a.toNat with
      | none => exact .inl ⟨by simp, ⟨x, by simp⟩, by simp, by simp⟩
      | some w => exact .inr ⟨by simp, ⟨x, by simp⟩, ⟨w, by simp⟩, by simp⟩

theorem State.busWrite_ram (s : State) (a v : Word) (h : inRam a = true) :
    s.busWrite a v = (true, (s.poke a v).record (.request (.memWrite a v) (some v))) := by
  simp [State.busWrite, h]

@[simp] theorem State.busWrite_reg (s : State) (a v : Word) (r : Reg) : (s.busWrite a v).2.reg r = s.reg r := by
  obtain ⟨-, h⟩ | ⟨-, -, h⟩ | ⟨-, -, -, h⟩ | ⟨-, -, -, h⟩ := s.busWrite_cases a v <;> simp [h]
@[simp] theorem State.busWrite_regs (s : State) (a v : Word) : (s.busWrite a v).2.regs = s.regs := by
  obtain ⟨-, h⟩ | ⟨-, -, h⟩ | ⟨-, -, -, h⟩ | ⟨-, -, -, h⟩ := s.busWrite_cases a v <;> simp [h]
@[simp] theorem State.busWrite_pc (s : State) (a v : Word) : (s.busWrite a v).2.pc = s.pc := by
  obtain ⟨-, h⟩ | ⟨-, -, h⟩ | ⟨-, -, -, h⟩ | ⟨-, -, -, h⟩ := s.busWrite_cases a v <;> simp [h]
@[simp] theorem State.busWrite_ir (s : State) (a v : Word) : (s.busWrite a v).2.ir = s.ir := by
  obtain ⟨-, h⟩ | ⟨-, -, h⟩ | ⟨-, -, -, h⟩ | ⟨-, -, -, h⟩ := s.busWrite_cases a v <;> simp [h]
@[simp] theorem State.busWrite_imm (s : State) (a v : Word) : (s.busWrite a v).2.imm = s.imm := by
  obtain ⟨-, h⟩ | ⟨-, -, h⟩ | ⟨-, -, -, h⟩ | ⟨-, -, -, h⟩ := s.busWrite_cases a v <;> simp [h]
@[simp] theorem State.busWrite_halt (s : State) (a v : Word) : (s.busWrite a v).2.halt = s.halt := by
  obtain ⟨-, h⟩ | ⟨-, -, h⟩ | ⟨-, -, -, h⟩ | ⟨-, -, -, h⟩ := s.busWrite_cases a v <;> simp [h]
@[simp] theorem State.busWrite_wait (s : State) (a v : Word) : (s.busWrite a v).2.wait = s.wait := by
  obtain ⟨-, h⟩ | ⟨-, -, h⟩ | ⟨-, -, -, h⟩ | ⟨-, -, -, h⟩ := s.busWrite_cases a v <;> simp [h]
@[simp] theorem State.busWrite_signals (s : State) (a v : Word) : (s.busWrite a v).2.signals = s.signals := by
  obtain ⟨-, h⟩ | ⟨-, -, h⟩ | ⟨-, -, -, h⟩ | ⟨-, -, -, h⟩ := s.busWrite_cases a v <;> simp [h]

/-- A write request keeps every other word. -/
theorem State.busWrite_peek_ne (s : State) (a v c : Word) (hc : c ≠ a) : (s.busWrite a v).2.peek c = s.peek c := by
  obtain ⟨-, h⟩ | ⟨-, -, h⟩ | ⟨-, -, -, h⟩ | ⟨-, -, -, h⟩ := s.busWrite_cases a v <;>
    simp [h, State.peek_poke, hc]

/-- A write request that succeeds makes a word that was known the new word, and leaves an unknown one to the
environment. -/
theorem State.busWrite_peek_same (s : State) (a v : Word) (hok : (s.busWrite a v).1 = true) :
    (s.busWrite a v).2.peek a = (s.peek a).map fun _ => v := by
  obtain ⟨hr, h⟩ | ⟨-, -, h⟩ | ⟨-, -, hn, h⟩ | ⟨-, -, ⟨w, hw⟩, h⟩ := s.busWrite_cases a v
  · obtain ⟨w, hw⟩ := s.peek_ram a hr
    simp [h, State.peek_poke, hw]
  · simp [h] at hok
  · simp [h, hn]
  · simp [h, State.peek_poke, hw]

/-- A write request that fails changes no word. -/
theorem State.busWrite_mem_failed (s : State) (a v : Word) (h : (s.busWrite a v).1 = false) :
    (s.busWrite a v).2.mem = s.mem := by
  obtain ⟨-, e⟩ | ⟨-, -, e⟩ | ⟨-, -, -, e⟩ | ⟨-, -, -, e⟩ := s.busWrite_cases a v <;> simp_all

/-- A write request is recorded once, with an answer that says whether it succeeded. -/
theorem State.busWrite_history (s : State) (a v : Word) :
    ∃ x : Option Word, x.isSome = (s.busWrite a v).1 ∧
      (s.busWrite a v).2.history = .request (.memWrite a v) x :: s.history := by
  obtain ⟨-, h⟩ | ⟨-, e, h⟩ | ⟨-, ⟨y, e⟩, -, h⟩ | ⟨-, ⟨y, e⟩, -, h⟩ := s.busWrite_cases a v
  · exact ⟨some v, by simp [h], by simp [h]⟩
  · exact ⟨none, by simp [h], by simp [h, e]⟩
  · exact ⟨some y, by simp [h], by simp [h, e]⟩
  · exact ⟨some y, by simp [h], by simp [h, e]⟩

/-- A write request keeps the canonical form of memory. -/
theorem State.busWrite_wf (s : State) (a v : Word) (hs : s.mem.wf = true) : (s.busWrite a v).2.mem.wf = true := by
  obtain ⟨-, h⟩ | ⟨-, -, h⟩ | ⟨-, -, -, h⟩ | ⟨-, -, -, h⟩ := s.busWrite_cases a v <;> rw [h]
  · exact s.wf_poke a v hs
  · exact hs
  · exact hs
  · exact (s.ask _).2.wf_poke a v hs

/-! ### The operations that can raise -/

theorem memRead_ok (a w : Word) (s : State) (rest : Word → State → Result) (h : (s.busRead a).1 = some w) :
    memRead a s rest = rest w (s.busRead a).2 := by
  unfold memRead
  generalize s.busRead a = p at *
  obtain ⟨x, t⟩ := p
  cases h; rfl

theorem memRead_failed (a : Word) (s : State) (rest : Word → State → Result) (h : (s.busRead a).1 = none) :
    memRead a s rest = .next ((s.busRead a).2.raise .invalidMemoryRead) := by
  unfold memRead
  generalize s.busRead a = p at *
  obtain ⟨x, t⟩ := p
  cases h; rfl

theorem memWrite_ok (a v : Word) (s : State) (rest : State → Result) (h : (s.busWrite a v).1 = true) :
    memWrite a v s rest = rest (s.busWrite a v).2 := by
  unfold memWrite
  generalize s.busWrite a v = p at *
  obtain ⟨x, t⟩ := p
  cases h; rfl

theorem memWrite_failed (a v : Word) (s : State) (rest : State → Result) (h : (s.busWrite a v).1 = false) :
    memWrite a v s rest = .next ((s.busWrite a v).2.raise .invalidMemoryWrite) := by
  unfold memWrite
  generalize s.busWrite a v = p at *
  obtain ⟨x, t⟩ := p
  cases h; rfl

theorem portRead_ok (p : Nat) (w : Word) (s : State) (rest : Word → State → Result)
    (h : s.answerTo (.portRead p) = some w) : portRead p s rest = rest w (s.ask (.portRead p)).2 := by
  simp [portRead, State.ask, h]

theorem portRead_failed (p : Nat) (s : State) (rest : Word → State → Result)
    (h : s.answerTo (.portRead p) = none) :
    portRead p s rest = .next ((s.ask (.portRead p)).2.raise .invalidPortRead) := by
  simp [portRead, State.ask, h, raise]

theorem portWrite_ok (p : Nat) (v w : Word) (s : State) (rest : State → Result)
    (h : s.answerTo (.portWrite p v) = some w) : portWrite p v s rest = rest (s.ask (.portWrite p v)).2 := by
  simp [portWrite, State.ask, h]

theorem portWrite_failed (p : Nat) (v : Word) (s : State) (rest : State → Result)
    (h : s.answerTo (.portWrite p v) = none) :
    portWrite p v s rest = .next ((s.ask (.portWrite p v)).2.raise .invalidPortWrite) := by
  simp [portWrite, State.ask, h, raise]

/-- The state of a push after its store and its decrement. -/
theorem stackPush_ok (v : Word) (s : State) (rest : State → Result) (hw : (s.busWrite (s.reg SP) v).1 = true)
    (hsp : 0 ≤ (s.reg SP - 1).toInt) :
    stackPush v s rest = rest ((s.busWrite (s.reg SP) v).2.setReg SP (s.reg SP - 1)) := by
  unfold stackPush
  rw [memWrite_ok _ _ _ _ hw]
  simp only [State.busWrite_reg, State.reg_setReg_same]
  rw [if_neg (by omega)]

theorem stackPush_overflow (v : Word) (s : State) (rest : State → Result)
    (hw : (s.busWrite (s.reg SP) v).1 = true) (hsp : (s.reg SP - 1).toInt < 0) :
    stackPush v s rest =
      .next (((s.busWrite (s.reg SP) v).2.setReg SP (s.reg SP - 1)).raise .stackOverflow) := by
  unfold stackPush
  rw [memWrite_ok _ _ _ _ hw]
  simp only [State.busWrite_reg, State.reg_setReg_same]
  rw [if_pos hsp]; rfl

theorem stackPush_failed (v : Word) (s : State) (rest : State → Result)
    (hw : (s.busWrite (s.reg SP) v).1 = false) :
    stackPush v s rest = .next ((s.busWrite (s.reg SP) v).2.raise .invalidMemoryWrite) := by
  unfold stackPush
  rw [memWrite_failed _ _ _ _ hw]

/-- A pop reads at the incremented SP, from the state in which SP is incremented. -/
theorem stackPop_inside (s : State) (rest : Word → State → Result)
    (hsp : (s.reg SP + 1).toInt ≤ Config.stackTop.toInt) :
    stackPop s rest = memRead (s.reg SP + 1) (s.setReg SP (s.reg SP + 1)) rest := by
  unfold stackPop
  simp only [State.reg_setReg_same]
  rw [if_neg (by omega)]

theorem stackPop_underflow (s : State) (rest : Word → State → Result)
    (hsp : Config.stackTop.toInt < (s.reg SP + 1).toInt) :
    stackPop s rest = .next ((s.setReg SP (s.reg SP + 1)).raise .stackUnderflow) := by
  unfold stackPop
  simp only [State.reg_setReg_same]
  rw [if_pos hsp]; rfl

end Sys2Proof.Machine
end

