-- ==== Sys2Proof/Laws/Exec.lean ====
section
/-! SUPPORT. What one instruction and one step can do, said once: a property of states that each named operation
keeps is kept by every instruction, and a step is a signal response or a processing cycle. -/

namespace Sys2Proof.Machine

/-- If the result is a next state, it has the property. -/
def Result.AllNext (P : State → Prop) (r : Result) : Prop := ∀ t, r = .next t → P t

/-- The property is kept by each named operation that the instruction can use. -/
structure Keeps (i : Instr) (P : State → Prop) : Prop where
  setReg : ∀ s r v, P s → P (s.setReg r v)
  setPc : ∀ s v, P s → P (s.setPc v)
  busRead : ∀ s a, P s → P (s.busRead a).2
  busWrite : ∀ s a v, P s → P (s.busWrite a v).2
  ask : ∀ s q, P s → P (s.ask q).2
  setHalt : i = .hlt → ∀ s, P s → P s.setHalt
  setWait : i = .wait → ∀ s, P s → P s.setWait

variable {i : Instr} {P : State → Prop}

theorem allNext_next {t : State} (h : P t) : Result.AllNext P (.next t) := by
  intro u hu; cases hu; exact h

theorem Keeps.raise (k : Keeps i P) (e : HardwareError) {s : State} (h : P s) : P (s.raise e) :=
  k.setPc _ _ (k.setReg _ _ _ (k.setReg _ _ _ (k.setReg _ _ _ (k.setReg _ _ _ (k.setReg _ _ _ (k.setReg _ _ _ h))))))

theorem Keeps.raises (k : Keeps i P) (e : HardwareError) {s : State} (h : P s) :
    Result.AllNext P (Sys2Proof.Machine.raise e s) := allNext_next (k.raise e h)

theorem Keeps.memRead (k : Keeps i P) (a : Word) {s : State} {rest : Word → State → Result} (h : P s)
    (hr : ∀ w t, P t → Result.AllNext P (rest w t)) : Result.AllNext P (memRead a s rest) := by
  cases e : (s.busRead a).1 with
  | some w => rw [memRead_ok _ _ _ _ e]; exact hr _ _ (k.busRead _ _ h)
  | none => rw [memRead_failed _ _ _ e]; exact allNext_next (k.raise _ (k.busRead _ _ h))

theorem Keeps.memWrite (k : Keeps i P) (a v : Word) {s : State} {rest : State → Result} (h : P s)
    (hr : ∀ t, P t → Result.AllNext P (rest t)) : Result.AllNext P (memWrite a v s rest) := by
  cases e : (s.busWrite a v).1 with
  | true => rw [memWrite_ok _ _ _ _ e]; exact hr _ (k.busWrite _ _ _ h)
  | false => rw [memWrite_failed _ _ _ _ e]; exact allNext_next (k.raise _ (k.busWrite _ _ _ h))

theorem Keeps.portRead (k : Keeps i P) (p : Nat) {s : State} {rest : Word → State → Result} (h : P s)
    (hr : ∀ w t, P t → Result.AllNext P (rest w t)) : Result.AllNext P (portRead p s rest) := by
  cases e : s.answerTo (.portRead p) with
  | some w => rw [portRead_ok _ _ _ _ e]; exact hr _ _ (k.ask _ _ h)
  | none => rw [portRead_failed _ _ _ e]; exact allNext_next (k.raise _ (k.ask _ _ h))

theorem Keeps.portWrite (k : Keeps i P) (p : Nat) (v : Word) {s : State} {rest : State → Result} (h : P s)
    (hr : ∀ t, P t → Result.AllNext P (rest t)) : Result.AllNext P (portWrite p v s rest) := by
  cases e : s.answerTo (.portWrite p v) with
  | some w => rw [portWrite_ok _ _ _ _ _ e]; exact hr _ (k.ask _ _ h)
  | none => rw [portWrite_failed _ _ _ _ e]; exact allNext_next (k.raise _ (k.ask _ _ h))

theorem Keeps.stackPush (k : Keeps i P) (v : Word) {s : State} {rest : State → Result} (h : P s)
    (hr : ∀ t, P t → Result.AllNext P (rest t)) : Result.AllNext P (stackPush v s rest) := by
  refine k.memWrite _ _ h fun t ht => ?_
  have hs := k.setReg t SP (t.reg SP - 1) ht
  simp only
  split
  · exact k.raises _ hs
  · exact hr _ hs

theorem Keeps.stackPop (k : Keeps i P) {s : State} {rest : Word → State → Result} (h : P s)
    (hr : ∀ w t, P t → Result.AllNext P (rest w t)) : Result.AllNext P (stackPop s rest) := by
  have hs := k.setReg s SP (s.reg SP + 1) h
  unfold Sys2Proof.Machine.stackPop
  simp only
  split
  · exact k.raises _ hs
  · exact k.memRead _ hs hr

theorem Keeps.updateReg (k : Keeps i P) (f : Word → Word) (r1 : Reg) {s : State} (h : P s) :
    Result.AllNext P (updateReg f r1 s) := allNext_next (k.setReg _ _ _ h)

theorem Keeps.updateWith (k : Keeps i P) (f : Word → Word → Word) (r1 : Reg) (b : Word) {s : State} (h : P s) :
    Result.AllNext P (updateWith f r1 b s) := allNext_next (k.setReg _ _ _ h)

theorem Keeps.compareWith (k : Keeps i P) (rel : Word → Word → Bool) (r1 : Reg) (b : Word) {s : State} (h : P s) :
    Result.AllNext P (compareWith rel r1 b s) := k.updateWith _ _ _ h

theorem Keeps.updateUnless (k : Keeps i P) (bad : Word → Word → Bool) (e : HardwareError)
    (f : Word → Word → Word) (r1 : Reg) (b : Word) {s : State} (h : P s) :
    Result.AllNext P (updateUnless bad e f r1 b s) := by
  unfold Sys2Proof.Machine.updateUnless
  split
  · exact k.raises _ h
  · exact k.updateWith _ _ _ h

theorem Keeps.updateRegUnless (k : Keeps i P) (bad : Word → Bool) (e : HardwareError) (f : Word → Word) (r1 : Reg)
    {s : State} (h : P s) : Result.AllNext P (updateRegUnless bad e f r1 s) := by
  unfold Sys2Proof.Machine.updateRegUnless
  split
  · exact k.raises _ h
  · exact k.updateReg _ _ h

theorem Keeps.jump (k : Keeps i P) (target : Word) {s : State} (h : P s) : Result.AllNext P (jump target s) :=
  allNext_next (k.setPc _ _ h)

theorem Keeps.jumpIf (k : Keeps i P) (c : Bool) (target : Word) {s : State} (h : P s) :
    Result.AllNext P (jumpIf c target s) := by
  unfold Sys2Proof.Machine.jumpIf
  split
  · exact k.jump _ h
  · exact allNext_next h

theorem Keeps.countDown (k : Keeps i P) {s : State} (h : P s) : P s.countDown := by
  unfold State.countDown
  simp only
  split
  · exact k.setPc _ _ (k.setReg _ _ _ h)
  · exact k.setReg _ _ _ h

theorem Keeps.moveOn (k : Keeps i P) {s : State} (h : P s) :
    P ((s.increment DR).increment SR).countDown :=
  k.countDown (k.setReg _ _ _ (k.setReg _ _ _ h))

/-- THE INSTRUCTIONS' COMMON RULE: what every operation of an instruction keeps, the instruction keeps. -/
theorem Keeps.exec (k : Keeps i P) {s : State} (h : P s) : Result.AllNext P (exec i s) := by
  cases i
  case hlt => exact allNext_next (k.setHalt rfl _ h)
  case wait => exact allNext_next (k.setWait rfl _ h)
  case jmpImm => exact k.jump _ h
  case jmpReg => exact k.jump _ h
  case callImm => exact k.stackPush _ h fun t ht => k.jump _ ht
  case callReg r1 => exact k.stackPush _ h fun t ht => k.jump (t.reg r1) ht
  case ret => exact k.stackPop h fun w t ht => k.jump _ ht
  case movRegMemImm => exact k.memRead _ h fun w t ht => allNext_next (k.setReg _ _ _ ht)
  case movRegMemReg => exact k.memRead _ h fun w t ht => allNext_next (k.setReg _ _ _ ht)
  case movRegMemRegImm => exact k.memRead _ h fun w t ht => allNext_next (k.setReg _ _ _ ht)
  case movMemImmReg => exact k.memWrite _ _ h fun t ht => allNext_next ht
  case movMemRegReg => exact k.memWrite _ _ h fun t ht => allNext_next ht
  case movMemRegImmReg => exact k.memWrite _ _ h fun t ht => allNext_next ht
  case push => exact k.stackPush _ h fun t ht => allNext_next ht
  case pop => exact k.stackPop h fun w t ht => allNext_next (k.setReg _ _ _ ht)
  case inPort => exact k.portRead _ h fun w t ht => allNext_next (k.setReg _ _ _ ht)
  case outImm => exact k.portWrite _ _ h fun t ht => allNext_next ht
  case outReg => exact k.portWrite _ _ h fun t ht => allNext_next ht
  case movs =>
    exact k.memRead _ h fun w t ht => k.memWrite _ _ ht fun u hu => allNext_next (k.moveOn hu)
  case sets => exact k.memWrite _ _ h fun t ht => allNext_next (k.countDown (k.setReg _ _ _ ht))
  case cmps r1 =>
    refine k.memRead _ h fun w t ht => k.memRead _ ht fun v u hu => ?_
    have hs := k.setReg u r1 (w - v) hu
    simp only
    split
    · exact allNext_next hs
    · exact allNext_next (k.moveOn hs)
  all_goals first
    | exact k.jumpIf _ _ h
    | exact allNext_next (k.setReg _ _ _ h)
    | exact k.compareWith _ _ _ h
    | exact k.updateReg _ _ h
    | exact k.updateWith _ _ _ h
    | exact k.updateUnless _ _ _ _ _ h
    | exact k.updateRegUnless _ _ _ _ h

/-! ### A step -/

/-- The state in which the response to the next signal begins: the signal is taken off and recorded. -/
theorem step_eq (s : State) :
    step s = respond s.nextSignal ({ s with signals := s.signals.tail }.record (.signal s.nextSignal)) := rfl

/-- All that a processing cycle does when both fetches succeed. -/
theorem fetch_one {s : State} {w : Word} {rest : State → Result} (h : (s.busRead s.pc).1 = some w)
    (hw : usesImmediate w = false) :
    fetch s rest = rest { (s.busRead s.pc).2 with ir := w, pc := s.pc + 1 } := by
  unfold fetch fetchInstruction
  rw [memRead_ok _ _ _ _ h]
  simp [fetchImmediate, hw]

theorem fetch_two {s : State} {w v : Word} {rest : State → Result} (h : (s.busRead s.pc).1 = some w)
    (hw : usesImmediate w = true)
    (h2 : (State.busRead { (s.busRead s.pc).2 with ir := w, pc := s.pc + 1 } (s.pc + 1)).1 = some v) :
    fetch s rest =
      rest { (State.busRead { (s.busRead s.pc).2 with ir := w, pc := s.pc + 1 } (s.pc + 1)).2 with
        imm := v, pc := s.pc + 1 + 1 } := by
  unfold fetch fetchInstruction
  rw [memRead_ok _ _ _ _ h]
  simp only [fetchImmediate, State.busRead_pc, hw, if_true]
  rw [memRead_ok _ _ _ _ h2]
  simp

theorem fetch_first_failed {s : State} {rest : State → Result} (h : (s.busRead s.pc).1 = none) :
    fetch s rest = .next ((s.busRead s.pc).2.raise .invalidMemoryRead) := by
  unfold fetch fetchInstruction
  rw [memRead_failed _ _ _ h]

theorem fetch_second_failed {s : State} {w : Word} {rest : State → Result} (h : (s.busRead s.pc).1 = some w)
    (hw : usesImmediate w = true)
    (h2 : (State.busRead { (s.busRead s.pc).2 with ir := w, pc := s.pc + 1 } (s.pc + 1)).1 = none) :
    fetch s rest =
      .next ((State.busRead { (s.busRead s.pc).2 with ir := w, pc := s.pc + 1 } (s.pc + 1)).2.raise
        .invalidMemoryRead) := by
  unfold fetch fetchInstruction
  rw [memRead_ok _ _ _ _ h]
  simp only [fetchImmediate, State.busRead_pc, hw, if_true]
  rw [memRead_failed _ _ _ h2]

/-- All that a processing cycle with a next state does: a fetch fails, or the decoded instruction runs. -/
theorem fetch_cases {s t : State} (h : fetch s execute = .next t) :
    ((s.busRead s.pc).1 = none ∧ t = (s.busRead s.pc).2.raise .invalidMemoryRead) ∨
    ∃ w, (s.busRead s.pc).1 = some w ∧
      ((usesImmediate w = false ∧ ∃ i, decodeWord w s.imm = .ok i ∧
          exec i { (s.busRead s.pc).2 with ir := w, pc := s.pc + 1 } = .next t) ∨
        (usesImmediate w = true ∧
          ((State.busRead { (s.busRead s.pc).2 with ir := w, pc := s.pc + 1 } (s.pc + 1)).1 = none ∧
              t = (State.busRead { (s.busRead s.pc).2 with ir := w, pc := s.pc + 1 } (s.pc + 1)).2.raise
                .invalidMemoryRead ∨
            ∃ v i, (State.busRead { (s.busRead s.pc).2 with ir := w, pc := s.pc + 1 } (s.pc + 1)).1 = some v ∧
              decodeWord w v = .ok i ∧
              exec i { (State.busRead { (s.busRead s.pc).2 with ir := w, pc := s.pc + 1 } (s.pc + 1)).2 with
                imm := v, pc := s.pc + 1 + 1 } = .next t))) := by
  have run : ∀ {u : State}, execute u = .next t → ∃ i, decodeWord u.ir u.imm = .ok i ∧ exec i u = .next t := by
    intro u hu
    unfold execute State.fetched at hu
    split at hu
    · exact ⟨_, ‹_›, hu⟩
    · cases hu
  cases hw : (s.busRead s.pc).1 with
  | none => rw [fetch_first_failed hw] at h; cases h; exact .inl ⟨rfl, rfl⟩
  | some w =>
    refine .inr ⟨w, rfl, ?_⟩
    cases hu : usesImmediate w with
    | false =>
      rw [fetch_one hw hu] at h
      obtain ⟨i, hi, hx⟩ := run h
      exact .inl ⟨rfl, i, by simpa using hi, hx⟩
    | true =>
      refine .inr ⟨rfl, ?_⟩
      cases hv : (State.busRead { (s.busRead s.pc).2 with ir := w, pc := s.pc + 1 } (s.pc + 1)).1 with
      | none => rw [fetch_second_failed hw hu hv] at h; cases h; exact .inl ⟨rfl, rfl⟩
      | some v =>
        rw [fetch_two hw hu hv] at h
        obtain ⟨i, hi, hx⟩ := run h
        exact .inr ⟨v, i, rfl, by simpa using hi, hx⟩

/-- THE STEPS' COMMON RULE: what every operation of every instruction keeps, and the fetch and the two other signals
keep, a step keeps. -/
theorem step_keeps {P : State → Prop} (k : ∀ i, Keeps i P)
    (hsignal : ∀ s g y, P s → P { s with signals := g, history := y })
    (hir : ∀ s w p, P s → P { s with ir := w, pc := p }) (himm : ∀ s w p, P s → P { s with imm := w, pc := p })
    (hreset : ∀ s, P s → P s.resetSignal) (hframe : ∀ s, P s → P s.frameSignal) {s t : State} (hs : P s)
    (h : step s = .next t) : P t := by
  rw [step_eq] at h
  have h0 : P ({ s with signals := s.signals.tail }.record (.signal s.nextSignal)) := hsignal s _ _ hs
  have hx : ∀ s, P s → Result.AllNext P (execute s) := by
    intro s hs
    unfold execute
    split
    · exact (k _).exec hs
    · intro t ht; cases ht
  generalize State.record { s with signals := s.signals.tail } (.signal s.nextSignal) = s0 at h h0
  cases hq : s.nextSignal with
  | reset => rw [hq] at h; cases h; exact hreset _ h0
  | frame => rw [hq] at h; cases h; exact hframe _ h0
  | cycle =>
    rw [hq] at h
    simp only [respond, cycleSignal] at h
    split at h
    · cases h; exact h0
    · refine (k .hlt).memRead _ h0 (fun w u hu => ?_) t h
      have hf := hir u w (u.pc + 1) hu
      unfold fetchImmediate
      beta_reduce
      split
      · exact (k .hlt).memRead _ hf fun v x hv => hx _ (himm _ _ _ hv)
      · exact hx _ hf

end Sys2Proof.Machine
end

