-- ==== Sys2Proof/Laws/Float.lean ====
section
/-! SUPPORT. The machine's readings of a float against the statements' (Safety): the fields, the value, the order. And
what a free word can do to a float result, so that no proof about ACOS or ATAN2 unfolds the choice
(spec/48_float_extended.md R230, R235, R236). -/

namespace Sys2Proof.Machine.F32

/-! ### The fields and the value -/

theorem exponent_eq (w : Word) : exponent w = expBits w := by
  simp [exponent, expBits, BitVec.extractLsb'_toNat, Nat.shiftRight_eq_div_pow]

theorem fraction_eq (w : Word) : fraction w = fracBits w := by
  simp [fraction, fracBits, BitVec.extractLsb'_toNat]

theorem isNaN_iff (w : Word) : isNaN w = true ↔ IsNaN w := by
  simp [isNaN, exponent_eq, fraction_eq, IsNaN]

theorem isInf_iff (w : Word) : isInf w = true ↔ IsInfinity w := by
  simp [isInf, exponent_eq, fraction_eq, IsInfinity]

/-- The value of a finite float, which the machine counts in units of 2^-149. -/
theorem floatValue_eq (w : Word) : floatValue w = (value w : ℚ) / 2 ^ 149 := by
  have hu : (units w : ℚ) / 2 ^ 149 = if expBits w = 0 then (fracBits w : ℚ) / 2 ^ 149
      else (1 + (fracBits w : ℚ) / 2 ^ 23) * 2 ^ ((expBits w : ℤ) - 127) := by
    unfold units
    rw [exponent_eq, fraction_eq]
    split
    · rfl
    · have h : (2 : ℚ) ^ ((expBits w : ℤ) - 127) = 2 ^ (expBits w - 1) / 2 ^ 126 := by
        rw [← zpow_natCast, ← zpow_natCast, ← zpow_sub₀ (by norm_num)]
        congr 1
        omega
      rw [h]
      push_cast
      ring
  unfold floatValue value sign
  rw [← hu]
  split <;> push_cast <;> ring

/-- The size of a finite float is below that of an infinity, 2^277 units. -/
theorem units_lt (w : Word) (h : IsFinite w) : units w < 2 ^ 24 * 2 ^ 253 := by
  have he : expBits w < 256 := (w.extractLsb' 23 8).isLt
  have hf : fracBits w < 2 ^ 23 := (w.extractLsb' 0 23).isLt
  unfold units
  rw [exponent_eq, fraction_eq]
  split
  · exact hf.trans (by decide)
  · calc (2 ^ 23 + fracBits w) * 2 ^ (expBits w - 1)
        < 2 ^ 24 * 2 ^ (expBits w - 1) := by
          apply Nat.mul_lt_mul_of_pos_right (by omega) (by positivity)
      _ ≤ 2 ^ 24 * 2 ^ 253 := Nat.mul_le_mul_left _ (Nat.pow_le_pow_right (by norm_num) (by unfold IsFinite at h; omega))

theorem units_inf (w : Word) (h : IsInfinity w) : units w = 2 ^ 24 * 2 ^ 253 := by
  unfold units
  rw [exponent_eq, fraction_eq, h.1, h.2]
  decide

/-! ### The order -/

/-- The extended value keeps the order of the machine's values, NaNs aside. -/
theorem value_lt_iff (a b : Word) (ha : ¬ IsNaN a) (hb : ¬ IsNaN b) :
    value a < value b ↔ extendedValue a < extendedValue b := by
  have key : ∀ w, ¬ IsNaN w →
      (IsInfinity w ∧ value w = (if w.getLsbD 31 then -(2 ^ 24 * 2 ^ 253) else 2 ^ 24 * 2 ^ 253)) ∨
      (¬ IsInfinity w ∧ -(2 ^ 24 * 2 ^ 253) < value w ∧ value w < 2 ^ 24 * 2 ^ 253) := by
    intro w hw
    by_cases hi : IsInfinity w
    · refine .inl ⟨hi, ?_⟩
      unfold value sign
      rw [units_inf w hi]
      push_cast
      rfl
    · have hf : IsFinite w := fun e => (em (fracBits w = 0)).elim (fun h => hi ⟨e, h⟩) fun h => hw ⟨e, h⟩
      have := units_lt w hf
      refine .inr ⟨hi, ?_⟩
      unfold value
      split <;> constructor <;> omega
  have fin : ∀ x y : Word, (((floatValue x : ℚ) : WithTop ℚ) : WithBot (WithTop ℚ)) < ((floatValue y : ℚ) : WithTop ℚ) ↔
      value x < value y := by
    intro x y
    rw [WithBot.coe_lt_coe, WithTop.coe_lt_coe, floatValue_eq, floatValue_eq,
      div_lt_div_iff_of_pos_right (by positivity)]
    exact Int.cast_lt
  have bot : ∀ x : ℚ, (⊥ : WithBot (WithTop ℚ)) < ((x : WithTop ℚ) : WithBot (WithTop ℚ)) := fun x => WithBot.bot_lt_coe _
  have top : ∀ x : ℚ, ((x : WithTop ℚ) : WithBot (WithTop ℚ)) < ((⊤ : WithTop ℚ) : WithBot (WithTop ℚ)) :=
    fun x => WithBot.coe_lt_coe.2 (WithTop.coe_lt_top x)
  have bt : (⊥ : WithBot (WithTop ℚ)) < ((⊤ : WithTop ℚ) : WithBot (WithTop ℚ)) := WithBot.bot_lt_coe _
  unfold extendedValue
  obtain ⟨ia, va⟩ | ⟨ia, va, va'⟩ := key a ha <;> obtain ⟨ib, vb⟩ | ⟨ib, vb, vb'⟩ := key b hb
  · rw [if_pos ia, if_pos ib, va, vb]
    cases a.getLsbD 31 <;> cases b.getLsbD 31 <;> simp
  · rw [if_pos ia, if_neg ib, va]
    cases a.getLsbD 31
    · simp only [Bool.false_eq_true, if_false]
      exact ⟨fun h => by omega, fun h => absurd h (top _).not_gt⟩
    · simp only [if_true]
      exact ⟨fun _ => bot _, fun _ => vb⟩
  · rw [if_neg ia, if_pos ib, vb]
    cases b.getLsbD 31
    · simp only [Bool.false_eq_true, if_false]
      exact ⟨fun _ => top _, fun _ => va'⟩
    · simp only [if_true]
      exact ⟨fun h => by omega, fun h => absurd h (bot _).not_gt⟩
  · rw [if_neg ia, if_neg ib]
    exact (fin a b).symm

/-- What `lt` and `le` decide (spec/41_comparisons.md R137). -/
theorem lt_iff (a b : Word) :
    lt a b = true ↔ ¬ IsNaN a ∧ ¬ IsNaN b ∧ extendedValue a < extendedValue b := by
  simp only [lt, ordered, Bool.and_eq_true, Bool.not_eq_true', decide_eq_true_eq, ← Bool.not_eq_true, isNaN_iff, and_assoc]
  constructor
  · rintro ⟨ha, hb, h⟩
    exact ⟨ha, hb, (value_lt_iff a b ha hb).1 h⟩
  · rintro ⟨ha, hb, h⟩
    exact ⟨ha, hb, (value_lt_iff a b ha hb).2 h⟩

theorem le_iff (a b : Word) :
    le a b = true ↔ ¬ IsNaN a ∧ ¬ IsNaN b ∧ extendedValue a ≤ extendedValue b := by
  simp only [le, ordered, Bool.and_eq_true, Bool.not_eq_true', decide_eq_true_eq, ← Bool.not_eq_true, isNaN_iff, and_assoc]
  constructor
  · rintro ⟨ha, hb, h⟩
    exact ⟨ha, hb, not_lt.1 fun e => absurd ((value_lt_iff b a hb ha).2 e) (not_lt.2 h)⟩
  · rintro ⟨ha, hb, h⟩
    exact ⟨ha, hb, not_lt.1 fun e => absurd ((value_lt_iff b a hb ha).1 e) (not_lt.2 h)⟩

/-- What `isZero` decides: the two zero words. -/
theorem isZero_iff (w : Word) : isZero w = true ↔ w = 0x00000000 ∨ w = 0x80000000 := by
  constructor
  · intro h
    simp only [isZero, eq, ordered, Bool.and_eq_true, beq_iff_eq] at h
    have hv : value (0 : Word) = 0 := by decide
    rw [hv] at h
    have hu : units w = 0 := by
      have := h.2
      unfold value at this
      split at this <;> omega
    unfold units at hu
    split at hu
    · have he : exponent w = 0 := ‹_›
      simp only [exponent, fraction] at he hu
      have hw := w.isLt
      have : w.toNat = 0 ∨ w.toNat = 0x80000000 := by omega
      rcases this with e | e
      · exact .inl (BitVec.eq_of_toNat_eq e)
      · exact .inr (BitVec.eq_of_toNat_eq e)
    · have : 0 < (2 ^ 23 + fraction w) * 2 ^ (exponent w - 1) := by positivity
      omega
  · rintro (rfl | rfl) <;> decide

/-! ### Free words -/

/-- A free word moves an angle by at most one in the last place. -/
theorem near_cases (angle free : Word) :
    near angle free = angle - 1 ∨ near angle free = angle ∨ near angle free = angle + 1 := by
  unfold near
  split
  · rcases ‹free = angle - 1 ∨ free = angle + 1› with h | h
    · exact .inl h
    · exact .inr (.inr h)
  · exact .inr (.inl rfl)

/-- A free word stays in a closed interval that is not empty. -/
theorem within_between {lo hi : Word} (h : le lo hi = true) (hl : le lo lo = true) (free : Word) :
    le lo (within lo hi free) = true ∧ le (within lo hi free) hi = true := by
  unfold within
  split
  · simpa using ‹(le lo free && le free hi) = true›
  · exact ⟨hl, h⟩

/-- The size of an angle is one of the named angles up to the last place, or lies in its quadrant. -/
theorem angleSize_cases (y x free : Word) :
    (isZero x = true ∧ angleSize y x free = near halfPi free) ∨
    (isZero y = true ∧ (angleSize y x free = pi - 1 ∨ angleSize y x free = pi)) ∨
    (eq y x = true ∧ angleSize y x free = near (if sign y then threeQuarterPi else quarterPi) free) ∨
    (sign x = true ∧ le halfPi (angleSize y x free) = true ∧ le (angleSize y x free) pi = true) ∨
    (sign x = false ∧ le 0 (angleSize y x free) = true ∧ le (angleSize y x free) halfPi = true) := by
  unfold angleSize
  split
  · exact .inl ⟨‹_›, rfl⟩
  split
  · refine .inr (.inl ⟨‹_›, ?_⟩)
    split
    · exact .inl ‹_›
    · exact .inr rfl
  split
  · exact .inr (.inr (.inl ⟨‹_›, rfl⟩))
  split
  · exact .inr (.inr (.inr (.inl ⟨‹_›, within_between (by decide) (by decide) free⟩)))
  · exact .inr (.inr (.inr (.inr ⟨by simpa using ‹¬ sign x = true›, within_between (by decide) (by decide) free⟩)))

end Sys2Proof.Machine.F32
end

