-- ==== Sys2Proof/Laws/PerInstr.lean ====
section
/-! SUPPORT. The family `EncodedLength` (spec/30_encoding.md R84, R97): every instruction is one word or two, and the
"Use immediate value" bit of its first word alone says which. One lemma per constructor of `Instr`. -/

namespace Sys2Proof.Laws

/-- A well-formed instruction's words: the first, and after it one word exactly if its bit 25 says so. -/
def EncodedLength.Statement (i : Instr) : Prop :=
  i.wellFormed = true →
    ∃ w rest, encode i = w :: rest ∧ rest.length = if usesImmediate w then 1 else 0

/-- The proof that all constructors share: the packed word's bit is the one it was packed with. -/
theorem encodedLength_of (i : Instr) (op : Opcode) (u r1 r2 mode port : Nat) (rest : List Word)
    (e : encode i = packWord op u r1 r2 mode port :: rest) (hu : u < 2) (h1 : r1 < 16) (h2 : r2 < 16)
    (hm : mode < 8) (hp : i.wellFormed = true → port < 16384) (hl : rest.length = u) :
    EncodedLength.Statement i := by
  intro h
  refine ⟨_, _, e, ?_⟩
  rw [usesImmediate_packWord op hu h1 h2 hm (hp h), hl]
  obtain rfl | rfl : u = 0 ∨ u = 1 := by omega
  · rfl
  · rfl

theorem EncodedLength.hlt : EncodedLength.Statement .hlt :=
  encodedLength_of _ _ _ _ _ _ _ _ rfl (by decide) (by decide) (by decide) (by decide) (fun _ => by decide) rfl

theorem EncodedLength.wait : EncodedLength.Statement .wait :=
  encodedLength_of _ _ _ _ _ _ _ _ rfl (by decide) (by decide) (by decide) (by decide) (fun _ => by decide) rfl

theorem EncodedLength.jmpImm (imm : Word) : EncodedLength.Statement (.jmpImm imm) :=
  encodedLength_of _ _ _ _ _ _ _ _ rfl (by decide) (by decide) (by decide) (by decide) (fun _ => by decide) rfl

theorem EncodedLength.jmpReg (r1 : Reg) : EncodedLength.Statement (.jmpReg r1) :=
  encodedLength_of _ _ _ _ _ _ _ _ rfl (by decide) r1.isLt (by decide) (by decide) (fun _ => by decide) rfl

theorem EncodedLength.callImm (imm : Word) : EncodedLength.Statement (.callImm imm) :=
  encodedLength_of _ _ _ _ _ _ _ _ rfl (by decide) (by decide) (by decide) (by decide) (fun _ => by decide) rfl

theorem EncodedLength.callReg (r1 : Reg) : EncodedLength.Statement (.callReg r1) :=
  encodedLength_of _ _ _ _ _ _ _ _ rfl (by decide) r1.isLt (by decide) (by decide) (fun _ => by decide) rfl

theorem EncodedLength.ret : EncodedLength.Statement .ret :=
  encodedLength_of _ _ _ _ _ _ _ _ rfl (by decide) (by decide) (by decide) (by decide) (fun _ => by decide) rfl

theorem EncodedLength.jtImm (r1 : Reg) (imm : Word) : EncodedLength.Statement (.jtImm r1 imm) :=
  encodedLength_of _ _ _ _ _ _ _ _ rfl (by decide) r1.isLt (by decide) (by decide) (fun _ => by decide) rfl

theorem EncodedLength.jtReg (r1 : Reg) (r2 : Reg) : EncodedLength.Statement (.jtReg r1 r2) :=
  encodedLength_of _ _ _ _ _ _ _ _ rfl (by decide) r1.isLt r2.isLt (by decide) (fun _ => by decide) rfl

theorem EncodedLength.jfImm (r1 : Reg) (imm : Word) : EncodedLength.Statement (.jfImm r1 imm) :=
  encodedLength_of _ _ _ _ _ _ _ _ rfl (by decide) r1.isLt (by decide) (by decide) (fun _ => by decide) rfl

theorem EncodedLength.jfReg (r1 : Reg) (r2 : Reg) : EncodedLength.Statement (.jfReg r1 r2) :=
  encodedLength_of _ _ _ _ _ _ _ _ rfl (by decide) r1.isLt r2.isLt (by decide) (fun _ => by decide) rfl

theorem EncodedLength.ieqImm (r1 : Reg) (imm : Word) : EncodedLength.Statement (.ieqImm r1 imm) :=
  encodedLength_of _ _ _ _ _ _ _ _ rfl (by decide) r1.isLt (by decide) (by decide) (fun _ => by decide) rfl

theorem EncodedLength.ieqReg (r1 : Reg) (r2 : Reg) : EncodedLength.Statement (.ieqReg r1 r2) :=
  encodedLength_of _ _ _ _ _ _ _ _ rfl (by decide) r1.isLt r2.isLt (by decide) (fun _ => by decide) rfl

theorem EncodedLength.ineImm (r1 : Reg) (imm : Word) : EncodedLength.Statement (.ineImm r1 imm) :=
  encodedLength_of _ _ _ _ _ _ _ _ rfl (by decide) r1.isLt (by decide) (by decide) (fun _ => by decide) rfl

theorem EncodedLength.ineReg (r1 : Reg) (r2 : Reg) : EncodedLength.Statement (.ineReg r1 r2) :=
  encodedLength_of _ _ _ _ _ _ _ _ rfl (by decide) r1.isLt r2.isLt (by decide) (fun _ => by decide) rfl

theorem EncodedLength.igtImm (r1 : Reg) (imm : Word) : EncodedLength.Statement (.igtImm r1 imm) :=
  encodedLength_of _ _ _ _ _ _ _ _ rfl (by decide) r1.isLt (by decide) (by decide) (fun _ => by decide) rfl

theorem EncodedLength.igtReg (r1 : Reg) (r2 : Reg) : EncodedLength.Statement (.igtReg r1 r2) :=
  encodedLength_of _ _ _ _ _ _ _ _ rfl (by decide) r1.isLt r2.isLt (by decide) (fun _ => by decide) rfl

theorem EncodedLength.igeImm (r1 : Reg) (imm : Word) : EncodedLength.Statement (.igeImm r1 imm) :=
  encodedLength_of _ _ _ _ _ _ _ _ rfl (by decide) r1.isLt (by decide) (by decide) (fun _ => by decide) rfl

theorem EncodedLength.igeReg (r1 : Reg) (r2 : Reg) : EncodedLength.Statement (.igeReg r1 r2) :=
  encodedLength_of _ _ _ _ _ _ _ _ rfl (by decide) r1.isLt r2.isLt (by decide) (fun _ => by decide) rfl

theorem EncodedLength.iltImm (r1 : Reg) (imm : Word) : EncodedLength.Statement (.iltImm r1 imm) :=
  encodedLength_of _ _ _ _ _ _ _ _ rfl (by decide) r1.isLt (by decide) (by decide) (fun _ => by decide) rfl

theorem EncodedLength.iltReg (r1 : Reg) (r2 : Reg) : EncodedLength.Statement (.iltReg r1 r2) :=
  encodedLength_of _ _ _ _ _ _ _ _ rfl (by decide) r1.isLt r2.isLt (by decide) (fun _ => by decide) rfl

theorem EncodedLength.ileImm (r1 : Reg) (imm : Word) : EncodedLength.Statement (.ileImm r1 imm) :=
  encodedLength_of _ _ _ _ _ _ _ _ rfl (by decide) r1.isLt (by decide) (by decide) (fun _ => by decide) rfl

theorem EncodedLength.ileReg (r1 : Reg) (r2 : Reg) : EncodedLength.Statement (.ileReg r1 r2) :=
  encodedLength_of _ _ _ _ _ _ _ _ rfl (by decide) r1.isLt r2.isLt (by decide) (fun _ => by decide) rfl

theorem EncodedLength.feqImm (r1 : Reg) (imm : Word) : EncodedLength.Statement (.feqImm r1 imm) :=
  encodedLength_of _ _ _ _ _ _ _ _ rfl (by decide) r1.isLt (by decide) (by decide) (fun _ => by decide) rfl

theorem EncodedLength.feqReg (r1 : Reg) (r2 : Reg) : EncodedLength.Statement (.feqReg r1 r2) :=
  encodedLength_of _ _ _ _ _ _ _ _ rfl (by decide) r1.isLt r2.isLt (by decide) (fun _ => by decide) rfl

theorem EncodedLength.fneImm (r1 : Reg) (imm : Word) : EncodedLength.Statement (.fneImm r1 imm) :=
  encodedLength_of _ _ _ _ _ _ _ _ rfl (by decide) r1.isLt (by decide) (by decide) (fun _ => by decide) rfl

theorem EncodedLength.fneReg (r1 : Reg) (r2 : Reg) : EncodedLength.Statement (.fneReg r1 r2) :=
  encodedLength_of _ _ _ _ _ _ _ _ rfl (by decide) r1.isLt r2.isLt (by decide) (fun _ => by decide) rfl

theorem EncodedLength.fgtImm (r1 : Reg) (imm : Word) : EncodedLength.Statement (.fgtImm r1 imm) :=
  encodedLength_of _ _ _ _ _ _ _ _ rfl (by decide) r1.isLt (by decide) (by decide) (fun _ => by decide) rfl

theorem EncodedLength.fgtReg (r1 : Reg) (r2 : Reg) : EncodedLength.Statement (.fgtReg r1 r2) :=
  encodedLength_of _ _ _ _ _ _ _ _ rfl (by decide) r1.isLt r2.isLt (by decide) (fun _ => by decide) rfl

theorem EncodedLength.fgeImm (r1 : Reg) (imm : Word) : EncodedLength.Statement (.fgeImm r1 imm) :=
  encodedLength_of _ _ _ _ _ _ _ _ rfl (by decide) r1.isLt (by decide) (by decide) (fun _ => by decide) rfl

theorem EncodedLength.fgeReg (r1 : Reg) (r2 : Reg) : EncodedLength.Statement (.fgeReg r1 r2) :=
  encodedLength_of _ _ _ _ _ _ _ _ rfl (by decide) r1.isLt r2.isLt (by decide) (fun _ => by decide) rfl

theorem EncodedLength.fltImm (r1 : Reg) (imm : Word) : EncodedLength.Statement (.fltImm r1 imm) :=
  encodedLength_of _ _ _ _ _ _ _ _ rfl (by decide) r1.isLt (by decide) (by decide) (fun _ => by decide) rfl

theorem EncodedLength.fltReg (r1 : Reg) (r2 : Reg) : EncodedLength.Statement (.fltReg r1 r2) :=
  encodedLength_of _ _ _ _ _ _ _ _ rfl (by decide) r1.isLt r2.isLt (by decide) (fun _ => by decide) rfl

theorem EncodedLength.fleImm (r1 : Reg) (imm : Word) : EncodedLength.Statement (.fleImm r1 imm) :=
  encodedLength_of _ _ _ _ _ _ _ _ rfl (by decide) r1.isLt (by decide) (by decide) (fun _ => by decide) rfl

theorem EncodedLength.fleReg (r1 : Reg) (r2 : Reg) : EncodedLength.Statement (.fleReg r1 r2) :=
  encodedLength_of _ _ _ _ _ _ _ _ rfl (by decide) r1.isLt r2.isLt (by decide) (fun _ => by decide) rfl

theorem EncodedLength.movRegImm (r1 : Reg) (imm : Word) : EncodedLength.Statement (.movRegImm r1 imm) :=
  encodedLength_of _ _ _ _ _ _ _ _ rfl (by decide) r1.isLt (by decide) (by decide) (fun _ => by decide) rfl

theorem EncodedLength.movRegReg (r1 : Reg) (r2 : Reg) : EncodedLength.Statement (.movRegReg r1 r2) :=
  encodedLength_of _ _ _ _ _ _ _ _ rfl (by decide) r1.isLt r2.isLt (by decide) (fun _ => by decide) rfl

theorem EncodedLength.movRegMemImm (r1 : Reg) (imm : Word) : EncodedLength.Statement (.movRegMemImm r1 imm) :=
  encodedLength_of _ _ _ _ _ _ _ _ rfl (by decide) r1.isLt (by decide) (by decide) (fun _ => by decide) rfl

theorem EncodedLength.movRegMemReg (r1 : Reg) (r2 : Reg) : EncodedLength.Statement (.movRegMemReg r1 r2) :=
  encodedLength_of _ _ _ _ _ _ _ _ rfl (by decide) r1.isLt r2.isLt (by decide) (fun _ => by decide) rfl

theorem EncodedLength.movRegMemRegImm (r1 : Reg) (r2 : Reg) (imm : Word) : EncodedLength.Statement (.movRegMemRegImm r1 r2 imm) :=
  encodedLength_of _ _ _ _ _ _ _ _ rfl (by decide) r1.isLt r2.isLt (by decide) (fun _ => by decide) rfl

theorem EncodedLength.movMemImmReg (r2 : Reg) (imm : Word) : EncodedLength.Statement (.movMemImmReg r2 imm) :=
  encodedLength_of _ _ _ _ _ _ _ _ rfl (by decide) (by decide) r2.isLt (by decide) (fun _ => by decide) rfl

theorem EncodedLength.movMemRegReg (r1 : Reg) (r2 : Reg) : EncodedLength.Statement (.movMemRegReg r1 r2) :=
  encodedLength_of _ _ _ _ _ _ _ _ rfl (by decide) r1.isLt r2.isLt (by decide) (fun _ => by decide) rfl

theorem EncodedLength.movMemRegImmReg (r1 : Reg) (r2 : Reg) (imm : Word) : EncodedLength.Statement (.movMemRegImmReg r1 r2 imm) :=
  encodedLength_of _ _ _ _ _ _ _ _ rfl (by decide) r1.isLt r2.isLt (by decide) (fun _ => by decide) rfl

theorem EncodedLength.leaReg (r1 : Reg) (r2 : Reg) : EncodedLength.Statement (.leaReg r1 r2) :=
  encodedLength_of _ _ _ _ _ _ _ _ rfl (by decide) r1.isLt r2.isLt (by decide) (fun _ => by decide) rfl

theorem EncodedLength.leaRegImm (r1 : Reg) (r2 : Reg) (imm : Word) : EncodedLength.Statement (.leaRegImm r1 r2 imm) :=
  encodedLength_of _ _ _ _ _ _ _ _ rfl (by decide) r1.isLt r2.isLt (by decide) (fun _ => by decide) rfl

theorem EncodedLength.push (r1 : Reg) : EncodedLength.Statement (.push r1) :=
  encodedLength_of _ _ _ _ _ _ _ _ rfl (by decide) r1.isLt (by decide) (by decide) (fun _ => by decide) rfl

theorem EncodedLength.pop (r1 : Reg) : EncodedLength.Statement (.pop r1) :=
  encodedLength_of _ _ _ _ _ _ _ _ rfl (by decide) r1.isLt (by decide) (by decide) (fun _ => by decide) rfl

theorem EncodedLength.inPort (r1 : Reg) (port : Nat) : EncodedLength.Statement (.inPort r1 port) :=
  encodedLength_of _ _ _ _ _ _ _ _ rfl (by decide) r1.isLt (by decide) (by decide) (of_decide_eq_true) rfl

theorem EncodedLength.outImm (port : Nat) (imm : Word) : EncodedLength.Statement (.outImm port imm) :=
  encodedLength_of _ _ _ _ _ _ _ _ rfl (by decide) (by decide) (by decide) (by decide) (of_decide_eq_true) rfl

theorem EncodedLength.outReg (port : Nat) (r1 : Reg) : EncodedLength.Statement (.outReg port r1) :=
  encodedLength_of _ _ _ _ _ _ _ _ rfl (by decide) r1.isLt (by decide) (by decide) (of_decide_eq_true) rfl

theorem EncodedLength.movs : EncodedLength.Statement .movs :=
  encodedLength_of _ _ _ _ _ _ _ _ rfl (by decide) (by decide) (by decide) (by decide) (fun _ => by decide) rfl

theorem EncodedLength.sets : EncodedLength.Statement .sets :=
  encodedLength_of _ _ _ _ _ _ _ _ rfl (by decide) (by decide) (by decide) (by decide) (fun _ => by decide) rfl

theorem EncodedLength.cmps (r1 : Reg) : EncodedLength.Statement (.cmps r1) :=
  encodedLength_of _ _ _ _ _ _ _ _ rfl (by decide) r1.isLt (by decide) (by decide) (fun _ => by decide) rfl

theorem EncodedLength.cif (r1 : Reg) : EncodedLength.Statement (.cif r1) :=
  encodedLength_of _ _ _ _ _ _ _ _ rfl (by decide) r1.isLt (by decide) (by decide) (fun _ => by decide) rfl

theorem EncodedLength.cfi (r1 : Reg) : EncodedLength.Statement (.cfi r1) :=
  encodedLength_of _ _ _ _ _ _ _ _ rfl (by decide) r1.isLt (by decide) (by decide) (fun _ => by decide) rfl

theorem EncodedLength.cib (r1 : Reg) : EncodedLength.Statement (.cib r1) :=
  encodedLength_of _ _ _ _ _ _ _ _ rfl (by decide) r1.isLt (by decide) (by decide) (fun _ => by decide) rfl

theorem EncodedLength.cfb (r1 : Reg) : EncodedLength.Statement (.cfb r1) :=
  encodedLength_of _ _ _ _ _ _ _ _ rfl (by decide) r1.isLt (by decide) (by decide) (fun _ => by decide) rfl

theorem EncodedLength.notReg (r1 : Reg) : EncodedLength.Statement (.notReg r1) :=
  encodedLength_of _ _ _ _ _ _ _ _ rfl (by decide) r1.isLt (by decide) (by decide) (fun _ => by decide) rfl

theorem EncodedLength.andImm (r1 : Reg) (imm : Word) : EncodedLength.Statement (.andImm r1 imm) :=
  encodedLength_of _ _ _ _ _ _ _ _ rfl (by decide) r1.isLt (by decide) (by decide) (fun _ => by decide) rfl

theorem EncodedLength.andReg (r1 : Reg) (r2 : Reg) : EncodedLength.Statement (.andReg r1 r2) :=
  encodedLength_of _ _ _ _ _ _ _ _ rfl (by decide) r1.isLt r2.isLt (by decide) (fun _ => by decide) rfl

theorem EncodedLength.orImm (r1 : Reg) (imm : Word) : EncodedLength.Statement (.orImm r1 imm) :=
  encodedLength_of _ _ _ _ _ _ _ _ rfl (by decide) r1.isLt (by decide) (by decide) (fun _ => by decide) rfl

theorem EncodedLength.orReg (r1 : Reg) (r2 : Reg) : EncodedLength.Statement (.orReg r1 r2) :=
  encodedLength_of _ _ _ _ _ _ _ _ rfl (by decide) r1.isLt r2.isLt (by decide) (fun _ => by decide) rfl

theorem EncodedLength.xorImm (r1 : Reg) (imm : Word) : EncodedLength.Statement (.xorImm r1 imm) :=
  encodedLength_of _ _ _ _ _ _ _ _ rfl (by decide) r1.isLt (by decide) (by decide) (fun _ => by decide) rfl

theorem EncodedLength.xorReg (r1 : Reg) (r2 : Reg) : EncodedLength.Statement (.xorReg r1 r2) :=
  encodedLength_of _ _ _ _ _ _ _ _ rfl (by decide) r1.isLt r2.isLt (by decide) (fun _ => by decide) rfl

theorem EncodedLength.bnot (r1 : Reg) : EncodedLength.Statement (.bnot r1) :=
  encodedLength_of _ _ _ _ _ _ _ _ rfl (by decide) r1.isLt (by decide) (by decide) (fun _ => by decide) rfl

theorem EncodedLength.shlImm (r1 : Reg) (imm : Word) : EncodedLength.Statement (.shlImm r1 imm) :=
  encodedLength_of _ _ _ _ _ _ _ _ rfl (by decide) r1.isLt (by decide) (by decide) (fun _ => by decide) rfl

theorem EncodedLength.shlReg (r1 : Reg) (r2 : Reg) : EncodedLength.Statement (.shlReg r1 r2) :=
  encodedLength_of _ _ _ _ _ _ _ _ rfl (by decide) r1.isLt r2.isLt (by decide) (fun _ => by decide) rfl

theorem EncodedLength.iaddImm (r1 : Reg) (imm : Word) : EncodedLength.Statement (.iaddImm r1 imm) :=
  encodedLength_of _ _ _ _ _ _ _ _ rfl (by decide) r1.isLt (by decide) (by decide) (fun _ => by decide) rfl

theorem EncodedLength.iaddReg (r1 : Reg) (r2 : Reg) : EncodedLength.Statement (.iaddReg r1 r2) :=
  encodedLength_of _ _ _ _ _ _ _ _ rfl (by decide) r1.isLt r2.isLt (by decide) (fun _ => by decide) rfl

theorem EncodedLength.isubImm (r1 : Reg) (imm : Word) : EncodedLength.Statement (.isubImm r1 imm) :=
  encodedLength_of _ _ _ _ _ _ _ _ rfl (by decide) r1.isLt (by decide) (by decide) (fun _ => by decide) rfl

theorem EncodedLength.isubReg (r1 : Reg) (r2 : Reg) : EncodedLength.Statement (.isubReg r1 r2) :=
  encodedLength_of _ _ _ _ _ _ _ _ rfl (by decide) r1.isLt r2.isLt (by decide) (fun _ => by decide) rfl

theorem EncodedLength.imulImm (r1 : Reg) (imm : Word) : EncodedLength.Statement (.imulImm r1 imm) :=
  encodedLength_of _ _ _ _ _ _ _ _ rfl (by decide) r1.isLt (by decide) (by decide) (fun _ => by decide) rfl

theorem EncodedLength.imulReg (r1 : Reg) (r2 : Reg) : EncodedLength.Statement (.imulReg r1 r2) :=
  encodedLength_of _ _ _ _ _ _ _ _ rfl (by decide) r1.isLt r2.isLt (by decide) (fun _ => by decide) rfl

theorem EncodedLength.idivImm (r1 : Reg) (imm : Word) : EncodedLength.Statement (.idivImm r1 imm) :=
  encodedLength_of _ _ _ _ _ _ _ _ rfl (by decide) r1.isLt (by decide) (by decide) (fun _ => by decide) rfl

theorem EncodedLength.idivReg (r1 : Reg) (r2 : Reg) : EncodedLength.Statement (.idivReg r1 r2) :=
  encodedLength_of _ _ _ _ _ _ _ _ rfl (by decide) r1.isLt r2.isLt (by decide) (fun _ => by decide) rfl

theorem EncodedLength.imodImm (r1 : Reg) (imm : Word) : EncodedLength.Statement (.imodImm r1 imm) :=
  encodedLength_of _ _ _ _ _ _ _ _ rfl (by decide) r1.isLt (by decide) (by decide) (fun _ => by decide) rfl

theorem EncodedLength.imodReg (r1 : Reg) (r2 : Reg) : EncodedLength.Statement (.imodReg r1 r2) :=
  encodedLength_of _ _ _ _ _ _ _ _ rfl (by decide) r1.isLt r2.isLt (by decide) (fun _ => by decide) rfl

theorem EncodedLength.isgn (r1 : Reg) : EncodedLength.Statement (.isgn r1) :=
  encodedLength_of _ _ _ _ _ _ _ _ rfl (by decide) r1.isLt (by decide) (by decide) (fun _ => by decide) rfl

theorem EncodedLength.iminImm (r1 : Reg) (imm : Word) : EncodedLength.Statement (.iminImm r1 imm) :=
  encodedLength_of _ _ _ _ _ _ _ _ rfl (by decide) r1.isLt (by decide) (by decide) (fun _ => by decide) rfl

theorem EncodedLength.iminReg (r1 : Reg) (r2 : Reg) : EncodedLength.Statement (.iminReg r1 r2) :=
  encodedLength_of _ _ _ _ _ _ _ _ rfl (by decide) r1.isLt r2.isLt (by decide) (fun _ => by decide) rfl

theorem EncodedLength.imaxImm (r1 : Reg) (imm : Word) : EncodedLength.Statement (.imaxImm r1 imm) :=
  encodedLength_of _ _ _ _ _ _ _ _ rfl (by decide) r1.isLt (by decide) (by decide) (fun _ => by decide) rfl

theorem EncodedLength.imaxReg (r1 : Reg) (r2 : Reg) : EncodedLength.Statement (.imaxReg r1 r2) :=
  encodedLength_of _ _ _ _ _ _ _ _ rfl (by decide) r1.isLt r2.isLt (by decide) (fun _ => by decide) rfl

theorem EncodedLength.iabs (r1 : Reg) : EncodedLength.Statement (.iabs r1) :=
  encodedLength_of _ _ _ _ _ _ _ _ rfl (by decide) r1.isLt (by decide) (by decide) (fun _ => by decide) rfl

theorem EncodedLength.faddImm (r1 : Reg) (imm : Word) : EncodedLength.Statement (.faddImm r1 imm) :=
  encodedLength_of _ _ _ _ _ _ _ _ rfl (by decide) r1.isLt (by decide) (by decide) (fun _ => by decide) rfl

theorem EncodedLength.faddReg (r1 : Reg) (r2 : Reg) : EncodedLength.Statement (.faddReg r1 r2) :=
  encodedLength_of _ _ _ _ _ _ _ _ rfl (by decide) r1.isLt r2.isLt (by decide) (fun _ => by decide) rfl

theorem EncodedLength.fsubImm (r1 : Reg) (imm : Word) : EncodedLength.Statement (.fsubImm r1 imm) :=
  encodedLength_of _ _ _ _ _ _ _ _ rfl (by decide) r1.isLt (by decide) (by decide) (fun _ => by decide) rfl

theorem EncodedLength.fsubReg (r1 : Reg) (r2 : Reg) : EncodedLength.Statement (.fsubReg r1 r2) :=
  encodedLength_of _ _ _ _ _ _ _ _ rfl (by decide) r1.isLt r2.isLt (by decide) (fun _ => by decide) rfl

theorem EncodedLength.fmulImm (r1 : Reg) (imm : Word) : EncodedLength.Statement (.fmulImm r1 imm) :=
  encodedLength_of _ _ _ _ _ _ _ _ rfl (by decide) r1.isLt (by decide) (by decide) (fun _ => by decide) rfl

theorem EncodedLength.fmulReg (r1 : Reg) (r2 : Reg) : EncodedLength.Statement (.fmulReg r1 r2) :=
  encodedLength_of _ _ _ _ _ _ _ _ rfl (by decide) r1.isLt r2.isLt (by decide) (fun _ => by decide) rfl

theorem EncodedLength.fdivImm (r1 : Reg) (imm : Word) : EncodedLength.Statement (.fdivImm r1 imm) :=
  encodedLength_of _ _ _ _ _ _ _ _ rfl (by decide) r1.isLt (by decide) (by decide) (fun _ => by decide) rfl

theorem EncodedLength.fdivReg (r1 : Reg) (r2 : Reg) : EncodedLength.Statement (.fdivReg r1 r2) :=
  encodedLength_of _ _ _ _ _ _ _ _ rfl (by decide) r1.isLt r2.isLt (by decide) (fun _ => by decide) rfl

theorem EncodedLength.fmodImm (r1 : Reg) (imm : Word) : EncodedLength.Statement (.fmodImm r1 imm) :=
  encodedLength_of _ _ _ _ _ _ _ _ rfl (by decide) r1.isLt (by decide) (by decide) (fun _ => by decide) rfl

theorem EncodedLength.fmodReg (r1 : Reg) (r2 : Reg) : EncodedLength.Statement (.fmodReg r1 r2) :=
  encodedLength_of _ _ _ _ _ _ _ _ rfl (by decide) r1.isLt r2.isLt (by decide) (fun _ => by decide) rfl

theorem EncodedLength.fsgn (r1 : Reg) : EncodedLength.Statement (.fsgn r1) :=
  encodedLength_of _ _ _ _ _ _ _ _ rfl (by decide) r1.isLt (by decide) (by decide) (fun _ => by decide) rfl

theorem EncodedLength.fminImm (r1 : Reg) (imm : Word) : EncodedLength.Statement (.fminImm r1 imm) :=
  encodedLength_of _ _ _ _ _ _ _ _ rfl (by decide) r1.isLt (by decide) (by decide) (fun _ => by decide) rfl

theorem EncodedLength.fminReg (r1 : Reg) (r2 : Reg) : EncodedLength.Statement (.fminReg r1 r2) :=
  encodedLength_of _ _ _ _ _ _ _ _ rfl (by decide) r1.isLt r2.isLt (by decide) (fun _ => by decide) rfl

theorem EncodedLength.fmaxImm (r1 : Reg) (imm : Word) : EncodedLength.Statement (.fmaxImm r1 imm) :=
  encodedLength_of _ _ _ _ _ _ _ _ rfl (by decide) r1.isLt (by decide) (by decide) (fun _ => by decide) rfl

theorem EncodedLength.fmaxReg (r1 : Reg) (r2 : Reg) : EncodedLength.Statement (.fmaxReg r1 r2) :=
  encodedLength_of _ _ _ _ _ _ _ _ rfl (by decide) r1.isLt r2.isLt (by decide) (fun _ => by decide) rfl

theorem EncodedLength.fabs (r1 : Reg) : EncodedLength.Statement (.fabs r1) :=
  encodedLength_of _ _ _ _ _ _ _ _ rfl (by decide) r1.isLt (by decide) (by decide) (fun _ => by decide) rfl

theorem EncodedLength.flr (r1 : Reg) : EncodedLength.Statement (.flr r1) :=
  encodedLength_of _ _ _ _ _ _ _ _ rfl (by decide) r1.isLt (by decide) (by decide) (fun _ => by decide) rfl

theorem EncodedLength.ceil (r1 : Reg) : EncodedLength.Statement (.ceil r1) :=
  encodedLength_of _ _ _ _ _ _ _ _ rfl (by decide) r1.isLt (by decide) (by decide) (fun _ => by decide) rfl

theorem EncodedLength.round (r1 : Reg) : EncodedLength.Statement (.round r1) :=
  encodedLength_of _ _ _ _ _ _ _ _ rfl (by decide) r1.isLt (by decide) (by decide) (fun _ => by decide) rfl

theorem EncodedLength.sin (r1 : Reg) : EncodedLength.Statement (.sin r1) :=
  encodedLength_of _ _ _ _ _ _ _ _ rfl (by decide) r1.isLt (by decide) (by decide) (fun _ => by decide) rfl

theorem EncodedLength.acos (r1 : Reg) : EncodedLength.Statement (.acos r1) :=
  encodedLength_of _ _ _ _ _ _ _ _ rfl (by decide) r1.isLt (by decide) (by decide) (fun _ => by decide) rfl

theorem EncodedLength.atan2 (r1 : Reg) (r2 : Reg) : EncodedLength.Statement (.atan2 r1 r2) :=
  encodedLength_of _ _ _ _ _ _ _ _ rfl (by decide) r1.isLt r2.isLt (by decide) (fun _ => by decide) rfl

theorem EncodedLength.log (r1 : Reg) : EncodedLength.Statement (.log r1) :=
  encodedLength_of _ _ _ _ _ _ _ _ rfl (by decide) r1.isLt (by decide) (by decide) (fun _ => by decide) rfl

theorem EncodedLength.pow (r1 : Reg) (r2 : Reg) : EncodedLength.Statement (.pow r1 r2) :=
  encodedLength_of _ _ _ _ _ _ _ _ rfl (by decide) r1.isLt r2.isLt (by decide) (fun _ => by decide) rfl

end Sys2Proof.Laws
end

