-- ==== Sys2Proof/Tests/Slice0.lean ====
section
/-! SUPPORT. The model's own tests: the well-formedness smoke, a word for every constructor written out from the
spec's encodings, small single steps with the values of the spec's examples, and a witness for every statement that
has hypotheses. -/

namespace Sys2Proof.Machine.Tests

/-! ### Well-formedness (spec/30_encoding.md R81): the check refuses a port number of 15 bits -/

theorem test_wellFormed_refuses_in : (Instr.inPort 1 16384).wellFormed = false := by decide
theorem test_wellFormed_refuses_outImm : (Instr.outImm 16384 0).wellFormed = false := by decide
theorem test_wellFormed_refuses_outReg : (Instr.outReg 16384 1).wellFormed = false := by decide
theorem test_wellFormed_admits : (Instr.inPort 1 16383).wellFormed = true := by decide

/-! ### Decoding: every constructor's word, written bit by bit from the encodings of spec/opcode_table.json with
Register 1 = 9, Register 2 = 6 and port 0x2A51 -/

/-- The words decode to the instruction, with no word left over. -/
def decodesTo (words : List Word) (i : Instr) : Bool :=
  match decode words with
  | .ok (j, rest) => j == i && rest.isEmpty
  | .error _ => false

/-- Opcodes 0 to 6. -/
theorem test_decode_control : (
  decodesTo [0b00000000000000000000000000000000] .hlt &&
  decodesTo [0b00000100000000000000000000000000] .wait &&
  decodesTo [0b00001010000000000000000000000000, 0x12345678] (.jmpImm 0x12345678) &&
  decodesTo [0b00001001001000000000000000000000] (.jmpReg 9) &&
  decodesTo [0b00001110000000000000000000000000, 0x12345678] (.callImm 0x12345678) &&
  decodesTo [0b00001101001000000000000000000000] (.callReg 9) &&
  decodesTo [0b00010000000000000000000000000000] .ret &&
  decodesTo [0b00010111001000000000000000000000, 0x12345678] (.jtImm 9 0x12345678) &&
  decodesTo [0b00010101001011000000000000000000] (.jtReg 9 6) &&
  decodesTo [0b00011011001000000000000000000000, 0x12345678] (.jfImm 9 0x12345678) &&
  decodesTo [0b00011001001011000000000000000000] (.jfReg 9 6)) = true := by decide

/-- Opcodes 7 to 18. -/
theorem test_decode_comparisons : (
  decodesTo [0b00011111001000000000000000000000, 0x12345678] (.ieqImm 9 0x12345678) &&
  decodesTo [0b00011101001011000000000000000000] (.ieqReg 9 6) &&
  decodesTo [0b00100011001000000000000000000000, 0x12345678] (.ineImm 9 0x12345678) &&
  decodesTo [0b00100001001011000000000000000000] (.ineReg 9 6) &&
  decodesTo [0b00100111001000000000000000000000, 0x12345678] (.igtImm 9 0x12345678) &&
  decodesTo [0b00100101001011000000000000000000] (.igtReg 9 6) &&
  decodesTo [0b00101011001000000000000000000000, 0x12345678] (.igeImm 9 0x12345678) &&
  decodesTo [0b00101001001011000000000000000000] (.igeReg 9 6) &&
  decodesTo [0b00101111001000000000000000000000, 0x12345678] (.iltImm 9 0x12345678) &&
  decodesTo [0b00101101001011000000000000000000] (.iltReg 9 6) &&
  decodesTo [0b00110011001000000000000000000000, 0x12345678] (.ileImm 9 0x12345678) &&
  decodesTo [0b00110001001011000000000000000000] (.ileReg 9 6) &&
  decodesTo [0b00110111001000000000000000000000, 0x12345678] (.feqImm 9 0x12345678) &&
  decodesTo [0b00110101001011000000000000000000] (.feqReg 9 6) &&
  decodesTo [0b00111011001000000000000000000000, 0x12345678] (.fneImm 9 0x12345678) &&
  decodesTo [0b00111001001011000000000000000000] (.fneReg 9 6) &&
  decodesTo [0b00111111001000000000000000000000, 0x12345678] (.fgtImm 9 0x12345678) &&
  decodesTo [0b00111101001011000000000000000000] (.fgtReg 9 6) &&
  decodesTo [0b01000011001000000000000000000000, 0x12345678] (.fgeImm 9 0x12345678) &&
  decodesTo [0b01000001001011000000000000000000] (.fgeReg 9 6) &&
  decodesTo [0b01000111001000000000000000000000, 0x12345678] (.fltImm 9 0x12345678) &&
  decodesTo [0b01000101001011000000000000000000] (.fltReg 9 6) &&
  decodesTo [0b01001011001000000000000000000000, 0x12345678] (.fleImm 9 0x12345678) &&
  decodesTo [0b01001001001011000000000000000000] (.fleReg 9 6)) = true := by decide

/-- Opcodes 19 to 24. -/
theorem test_decode_moves : (
  decodesTo [0b01001111001000000000000000000000, 0x12345678] (.movRegImm 9 0x12345678) &&
  decodesTo [0b01001101001011000100000000000000] (.movRegReg 9 6) &&
  decodesTo [0b01001111001000001000000000000000, 0x12345678] (.movRegMemImm 9 0x12345678) &&
  decodesTo [0b01001101001011001100000000000000] (.movRegMemReg 9 6) &&
  decodesTo [0b01001111001011010000000000000000, 0x12345678] (.movRegMemRegImm 9 6 0x12345678) &&
  decodesTo [0b01001110000011010100000000000000, 0x12345678] (.movMemImmReg 6 0x12345678) &&
  decodesTo [0b01001101001011011000000000000000] (.movMemRegReg 9 6) &&
  decodesTo [0b01001111001011011100000000000000, 0x12345678] (.movMemRegImmReg 9 6 0x12345678) &&
  decodesTo [0b01010001001011000000000000000000] (.leaReg 9 6) &&
  decodesTo [0b01010011001011000000000000000000, 0x12345678] (.leaRegImm 9 6 0x12345678) &&
  decodesTo [0b01010101001000000000000000000000] (.push 9) &&
  decodesTo [0b01011001001000000000000000000000] (.pop 9) &&
  decodesTo [0b01011101001000000010101001010001] (.inPort 9 0x2A51) &&
  decodesTo [0b01100010000000000010101001010001, 0x12345678] (.outImm 0x2A51 0x12345678) &&
  decodesTo [0b01100001001000000010101001010001] (.outReg 0x2A51 9)) = true := by decide

/-- Opcodes 25 to 27. -/
theorem test_decode_strings : (
  decodesTo [0b01100100000000000000000000000000] .movs &&
  decodesTo [0b01101000000000000000000000000000] .sets &&
  decodesTo [0b01101101001000000000000000000000] (.cmps 9)) = true := by decide

/-- Opcodes 28 to 31. -/
theorem test_decode_conversions : (
  decodesTo [0b01110001001000000000000000000000] (.cif 9) &&
  decodesTo [0b01110101001000000000000000000000] (.cfi 9) &&
  decodesTo [0b01111001001000000000000000000000] (.cib 9) &&
  decodesTo [0b01111101001000000000000000000000] (.cfb 9)) = true := by decide

/-- Opcodes 32 to 37. -/
theorem test_decode_binary : (
  decodesTo [0b10000001001000000000000000000000] (.notReg 9) &&
  decodesTo [0b10000111001000000000000000000000, 0x12345678] (.andImm 9 0x12345678) &&
  decodesTo [0b10000101001011000000000000000000] (.andReg 9 6) &&
  decodesTo [0b10001011001000000000000000000000, 0x12345678] (.orImm 9 0x12345678) &&
  decodesTo [0b10001001001011000000000000000000] (.orReg 9 6) &&
  decodesTo [0b10001111001000000000000000000000, 0x12345678] (.xorImm 9 0x12345678) &&
  decodesTo [0b10001101001011000000000000000000] (.xorReg 9 6) &&
  decodesTo [0b10010001001000000000000000000000] (.bnot 9) &&
  decodesTo [0b10010111001000000000000000000000, 0x12345678] (.shlImm 9 0x12345678) &&
  decodesTo [0b10010101001011000000000000000000] (.shlReg 9 6)) = true := by decide

/-- Opcodes 38 to 46. -/
theorem test_decode_integers : (
  decodesTo [0b10011011001000000000000000000000, 0x12345678] (.iaddImm 9 0x12345678) &&
  decodesTo [0b10011001001011000000000000000000] (.iaddReg 9 6) &&
  decodesTo [0b10011111001000000000000000000000, 0x12345678] (.isubImm 9 0x12345678) &&
  decodesTo [0b10011101001011000000000000000000] (.isubReg 9 6) &&
  decodesTo [0b10100011001000000000000000000000, 0x12345678] (.imulImm 9 0x12345678) &&
  decodesTo [0b10100001001011000000000000000000] (.imulReg 9 6) &&
  decodesTo [0b10100111001000000000000000000000, 0x12345678] (.idivImm 9 0x12345678) &&
  decodesTo [0b10100101001011000000000000000000] (.idivReg 9 6) &&
  decodesTo [0b10101011001000000000000000000000, 0x12345678] (.imodImm 9 0x12345678) &&
  decodesTo [0b10101001001011000000000000000000] (.imodReg 9 6) &&
  decodesTo [0b10101101001000000000000000000000] (.isgn 9) &&
  decodesTo [0b10110011001000000000000000000000, 0x12345678] (.iminImm 9 0x12345678) &&
  decodesTo [0b10110001001011000000000000000000] (.iminReg 9 6) &&
  decodesTo [0b10110111001000000000000000000000, 0x12345678] (.imaxImm 9 0x12345678) &&
  decodesTo [0b10110101001011000000000000000000] (.imaxReg 9 6) &&
  decodesTo [0b10111001001000000000000000000000] (.iabs 9)) = true := by decide

/-- Opcodes 47 to 55. -/
theorem test_decode_floats : (
  decodesTo [0b10111111001000000000000000000000, 0x12345678] (.faddImm 9 0x12345678) &&
  decodesTo [0b10111101001011000000000000000000] (.faddReg 9 6) &&
  decodesTo [0b11000011001000000000000000000000, 0x12345678] (.fsubImm 9 0x12345678) &&
  decodesTo [0b11000001001011000000000000000000] (.fsubReg 9 6) &&
  decodesTo [0b11000111001000000000000000000000, 0x12345678] (.fmulImm 9 0x12345678) &&
  decodesTo [0b11000101001011000000000000000000] (.fmulReg 9 6) &&
  decodesTo [0b11001011001000000000000000000000, 0x12345678] (.fdivImm 9 0x12345678) &&
  decodesTo [0b11001001001011000000000000000000] (.fdivReg 9 6) &&
  decodesTo [0b11001111001000000000000000000000, 0x12345678] (.fmodImm 9 0x12345678) &&
  decodesTo [0b11001101001011000000000000000000] (.fmodReg 9 6) &&
  decodesTo [0b11010001001000000000000000000000] (.fsgn 9) &&
  decodesTo [0b11010111001000000000000000000000, 0x12345678] (.fminImm 9 0x12345678) &&
  decodesTo [0b11010101001011000000000000000000] (.fminReg 9 6) &&
  decodesTo [0b11011011001000000000000000000000, 0x12345678] (.fmaxImm 9 0x12345678) &&
  decodesTo [0b11011001001011000000000000000000] (.fmaxReg 9 6) &&
  decodesTo [0b11011101001000000000000000000000] (.fabs 9)) = true := by decide

/-- Opcodes 56 to 63. -/
theorem test_decode_extended : (
  decodesTo [0b11100001001000000000000000000000] (.flr 9) &&
  decodesTo [0b11100101001000000000000000000000] (.ceil 9) &&
  decodesTo [0b11101001001000000000000000000000] (.round 9) &&
  decodesTo [0b11101101001000000000000000000000] (.sin 9) &&
  decodesTo [0b11110001001000000000000000000000] (.acos 9) &&
  decodesTo [0b11110101001011000000000000000000] (.atan2 9 6) &&
  decodesTo [0b11111001001000000000000000000000] (.log 9) &&
  decodesTo [0b11111101001011000000000000000000] (.pow 9 6)) = true := by decide

/-- A word of all ones has opcode 63 with bit 25 set and is ill formed (R96). -/
theorem test_decode_refuses_ones : decodesTo [0xFFFFFFFF, 0] (.pow 15 15) = false := by decide

/-- The table's bits as the host gives them: the immediate is bits 63 to 32. -/
theorem test_decodeTableWord : decodeTableWord 64 0x000003000E000000 = some (.callImm 0x300) := by decide

/-! ### Single steps, with the values of the rules' own examples -/

/-- A running state at 0x100 with the given registers, memory words and environment answers. -/
def at100 (regs : List (Reg × Word)) (mem : Memory := []) (answers : List (Option Word) := []) : State :=
  regs.foldl (fun s p => s.setReg p.1 p.2)
    { State.reset with pc := 0x100, mem := mem, answers := answers }

/-- What a property of the next state gives; `none` where there is none. -/
def after (r : Result) (f : State → α) : Option α :=
  match r with
  | .next t => some (f t)
  | _ => none

/-- R1 after an instruction with R1 and R2 given. -/
def r1After (i : Instr) (a : Word) (b : Word := 0) : Option Word := after (exec i (at100 [(1, a), (2, b)])) (·.reg 1)

/-- `pc` after an instruction with R1 and R2 given. -/
def pcAfter (i : Instr) (a : Word) (b : Word := 0) : Option Word := after (exec i (at100 [(1, a), (2, b)])) (·.pc)

theorem test_hlt : after (exec .hlt (at100 [])) (·.halt) = some true := by decide
theorem test_wait : after (exec .wait (at100 [])) (·.wait) = some true := by decide
theorem test_jmp : pcAfter (.jmpReg 1) 0x200 = some 0x200 := by decide
theorem test_call : after (exec (.callImm 0x300) (at100 [])) (fun t => (t.pc, t.reg 15, t.peek 0x3FFFFF)) =
    some (0x300, 0x3FFFFE, some 0x100) := by decide
theorem test_call_sp : after (exec (.callReg 15) (at100 [])) (·.pc) = some 0x3FFFFE := by decide
theorem test_ret : after (exec .ret (at100 [(15, 0x3FFFFE)] [(0x3FFFFF, 0x102)])) (fun t => (t.pc, t.reg 15)) =
    some (0x102, 0x3FFFFF) := by decide
theorem test_ret_underflow : after (exec .ret (at100 [])) (fun t => (t.reg 0, t.pc)) = some (5, 0x10000000) := by
  decide
theorem test_jt : (pcAfter (.jtImm 1 0x200) 1, pcAfter (.jtImm 1 0x200) 0) = (some 0x200, some 0x100) := by decide
theorem test_jf : (pcAfter (.jfImm 1 0x200) 0, pcAfter (.jfImm 1 0x200) 5) = (some 0x200, some 0x100) := by decide

theorem test_ieq : (r1After (.ieqReg 1 2) 5 5, r1After (.ieqReg 1 2) 5 6) = (some 1, some 0) := by decide
theorem test_ine : (r1After (.ineImm 1 7) 7, r1After (.ineImm 1 7) 0xFFFFFFFF) = (some 0, some 1) := by decide
theorem test_igt : r1After (.igtReg 1 2) 3 0xFFFFFFFE = some 1 := by decide
theorem test_ige : (r1After (.igeImm 1 0) 0xFFFFFFFF, r1After (.igeImm 1 0) 0) = (some 0, some 1) := by decide
theorem test_ilt : (r1After (.iltImm 1 10) 9, r1After (.iltImm 1 10) 10) = (some 1, some 0) := by decide
theorem test_ile : r1After (.ileReg 1 2) 0xFFFFFFFF 0 = some 1 := by decide
theorem test_feq_zeros : r1After (.feqReg 1 2) 0 0x80000000 = some 1 := by decide
theorem test_fne : r1After (.fneImm 1 0x40000000) 0x3F800000 = some 1 := by decide
theorem test_fgt : r1After (.fgtReg 1 2) 0x3F800000 0xBF800000 = some 1 := by decide
theorem test_fge : (r1After (.fgeImm 1 0) 0xBF000000, r1After (.fgeImm 1 0) 0x80000000) = (some 0, some 1) := by decide
theorem test_flt : r1After (.fltReg 1 2) 0xC0400000 0x3F000000 = some 1 := by decide
theorem test_fle : (r1After (.fleImm 1 0x3F800000) 0x3F800000, r1After (.fleImm 1 0x3F800000) 0x3FC00000) =
    (some 1, some 0) := by decide

theorem test_mov_load : after (exec (.movRegMemRegImm 1 2 0xFFFFFFFF) (at100 [(2, 0x101)] [(0x100, 9)])) (·.reg 1) =
    some 9 := by decide
theorem test_mov_store : after (exec (.movMemRegImmReg 1 2 2) (at100 [(1, 0x100), (2, 7)])) (·.peek 0x102) =
    some (some 7) := by decide
theorem test_lea : after (exec (.leaRegImm 1 14 0xFFFFFFFE) (at100 [(14, 0x3FFFF0)])) (·.reg 1) = some 0x3FFFEE := by
  decide
theorem test_push : after (exec (.push 1) (at100 [(1, 0xCAFE0001)])) (fun t => (t.peek 0x3FFFFF, t.reg 15)) =
    some (some 0xCAFE0001, 0x3FFFFE) := by decide
theorem test_push_overflow : after (exec (.push 1) (at100 [(1, 7), (15, 0)]))
    (fun t => (t.reg 0, t.reg 15, t.peek 0)) = some (4, 0x3FFFFF, some 7) := by decide
theorem test_pop : after (exec (.pop 2) (at100 [(15, 0x3FFFFE)] [(0x3FFFFF, 0xCAFE0001)]))
    (fun t => (t.reg 2, t.reg 15)) = some (0xCAFE0001, 0x3FFFFF) := by decide
theorem test_pop_sp : after (exec (.pop 15) (at100 [(15, 0x3FFFFE)] [(0x3FFFFF, 0x55)])) (·.reg 15) = some 0x55 := by
  decide
theorem test_in : after (exec (.inPort 1 5) (at100 [] [] [some 0x2A])) (·.reg 1) = some 0x2A := by decide
theorem test_in_failed : after (exec (.inPort 1 5) (at100 [] [] [none])) (·.reg 0) = some 2 := by decide
theorem test_out : after (exec (.outImm 5 1) (at100 [] [] [some 0])) (·.history) =
    some [.request (.portWrite 5 1) (some 0)] := by decide
theorem test_movs : after (exec .movs (at100 [(11, 3), (12, 0x200), (13, 0x300)] [(0x200, 0xA)]))
    (fun t => (t.peek 0x300, t.reg 13, t.reg 12, t.reg 11, t.pc)) = some (some 0xA, 0x301, 0x201, 2, 0xFF) := by decide
theorem test_sets_last : after (exec .sets (at100 [(11, 1), (12, 0xFFFFFFFF), (13, 0x300)]))
    (fun t => (t.peek 0x300, t.reg 13, t.reg 12, t.reg 11, t.pc)) =
    some (some 0xFFFFFFFF, 0x301, 0xFFFFFFFF, 0, 0x100) := by decide
theorem test_cmps : after (exec (.cmps 1) (at100 [(11, 2), (12, 0x101), (13, 0x201)] [(0x101, 6), (0x201, 9)]))
    (fun t => (t.reg 1, t.reg 13, t.reg 12, t.reg 11, t.pc)) = some (3, 0x201, 0x101, 2, 0x100) := by decide

theorem test_cif : (r1After (.cif 1) 0xFFFFFFFF, r1After (.cif 1) 0x01000001) = (some 0xBF800000, some 0x4B800000) := by
  decide
theorem test_cfi : (r1After (.cfi 1) 0xC0700000, r1After (.cfi 1) 0x4EFFFFFF) = (some 0xFFFFFFFD, some 0x7FFFFF80) := by
  decide
theorem test_cib : (r1After (.cib 1) 0xFFFFFFFE, r1After (.cib 1) 0) = (some 1, some 0) := by decide
theorem test_cfb : (r1After (.cfb 1) 0x80000000, r1After (.cfb 1) 1) = (some 0, some 1) := by decide
theorem test_not : r1After (.notReg 1) 0x0000FFFF = some 0xFFFF0000 := by decide
theorem test_and : r1After (.andReg 1 2) 0xF0F0F0F0 0xFF00FF00 = some 0xF000F000 := by decide
theorem test_or : r1After (.orReg 1 2) 0xF0F0F0F0 0xFF00FF00 = some 0xFFF0FFF0 := by decide
theorem test_xor : r1After (.xorReg 1 2) 0xF0F0F0F0 0xFF00FF00 = some 0x0FF00FF0 := by decide
theorem test_bnot : (r1After (.bnot 1) 0, r1After (.bnot 1) 0xFFFFFFFE) = (some 1, some 0) := by decide
theorem test_shl_right : r1After (.shlImm 1 0xFFFFFFFC) 0xF000000F = some 0x0F000000 := by decide
theorem test_shl_32 : (r1After (.shlReg 1 2) 1 31, r1After (.shlReg 1 2) 1 32) = (some 0x80000000, some 0) := by decide

theorem test_iadd : r1After (.iaddImm 1 1) 0x7FFFFFFF = some 0x80000000 := by decide
theorem test_isub : r1After (.isubReg 1 2) 5 7 = some 0xFFFFFFFE := by decide
theorem test_imul : r1After (.imulImm 1 0xEA60) 60000 = some 0xD693A400 := by decide
theorem test_idiv : r1After (.idivReg 1 2) 0xFFFFFFF9 2 = some 0xFFFFFFFD := by decide
theorem test_idiv_zero : after (exec (.idivReg 1 2) (at100 [(1, 7)])) (fun t => (t.reg 0, t.reg 1, t.pc)) =
    some (6, 0x100, 0x10000000) := by decide
theorem test_imod : r1After (.imodReg 1 2) 0xFFFFFFF9 2 = some 0xFFFFFFFF := by decide
theorem test_isgn : (r1After (.isgn 1) 5, r1After (.isgn 1) 0x80000000) = (some 0xFFFFFFFB, some 0x80000000) := by
  decide
theorem test_imin : r1After (.iminReg 1 2) 3 0xFFFFFFFE = some 0xFFFFFFFE := by decide
theorem test_imax : r1After (.imaxImm 1 0) 0xFFFFFFF6 = some 0 := by decide
theorem test_iabs : (r1After (.iabs 1) 0xFFFFFFFB, r1After (.iabs 1) 0x80000000) = (some 5, some 0x80000000) := by
  decide

theorem test_fadd : r1After (.faddImm 1 0x3E4CCCCD) 0x3DCCCCCD = some 0x3E99999A := by decide
theorem test_fsub : r1After (.fsubReg 1 2) 0x40700000 0x40100000 = some 0x3FC00000 := by decide
theorem test_fmul : r1After (.fmulImm 1 0xBF000000) 0x40800000 = some 0xC0000000 := by decide
theorem test_fdiv : r1After (.fdivReg 1 2) 0x3F800000 0x40400000 = some 0x3EAAAAAB := by decide
theorem test_fdiv_minus_zero : after (exec (.fdivImm 1 0x80000000) (at100 [])) (·.reg 0) = some 6 := by decide
theorem test_fmod : r1After (.fmodReg 1 2) 0xC0F00000 0x40000000 = some 0xBFC00000 := by decide
theorem test_fsgn : r1After (.fsgn 1) 0x3FC00000 = some 0xBFC00000 := by decide
theorem test_fmin : r1After (.fminReg 1 2) 0x3FC00000 0xC0200000 = some 0xC0200000 := by decide
theorem test_fmax : r1After (.fmaxReg 1 2) 0x3FC00000 0xC0200000 = some 0x3FC00000 := by decide
theorem test_fabs : r1After (.fabs 1) 0xC0200000 = some 0x40200000 := by decide
theorem test_flr : r1After (.flr 1) 0xC0200000 = some 0xC0400000 := by decide
theorem test_ceil : (r1After (.ceil 1) 0xC0200000, r1After (.ceil 1) 0xBF000000) = (some 0xC0000000, some 0x80000000) := by
  decide
theorem test_round : (r1After (.round 1) 0x40200000, r1After (.round 1) 0x4019999A) = (some 0x40400000, some 0x40000000) := by
  decide
theorem test_acos_error : after (exec (.acos 1) (at100 [(1, 0x3FC00000)])) (·.reg 0) = some 7 := by decide
/-- The origin of angles (R236; spec/95_test_vectors.md). -/
theorem test_atan2_origin : r1After (.atan2 1 2) 0 0x3F800000 = some 0 := by decide
theorem test_atan2_error : after (exec (.atan2 1 2) (at100 [(2, 0x80000000)])) (·.reg 0) = some 8 := by decide
theorem test_log_error : after (exec (.log 1) (at100 [(1, 0xBF800000)])) (·.reg 0) = some 9 := by decide
theorem test_pow_error : after (exec (.pow 1 2) (at100 [(1, 0xC0000000), (2, 0x3F000000)])) (·.reg 0) = some 10 := by
  decide

/-- The first cycle after reset runs the word placed where it fetches. -/
theorem test_withFetchWord : after (step (State.reset.withFetchWord 64 0x123456784E200000))
    (fun t => (t.reg 1, t.pc, t.ir, t.imm)) = some (0x12345678, 0x10000006, 0x4E200000, 0x12345678) := by decide

/-! ### Witnesses: for every statement with hypotheses, a state and operands that meet them, at the ends of the ranges
the statement names -/

/-- An address outside RAM. -/
abbrev device : Word := 0x20000000

/-- A state that will run the word at 0x100 on the next cycle signal. -/
def running (first second : Word) : State := at100 [] [(0x100, first), (0x101, second)]

theorem test_witness_DecodeEncodeRoundTrip :
    (Instr.outReg 16383 15).wellFormed = true ∧ (Instr.movMemRegImmReg 0 15 0xFFFFFFFF).wellFormed = true := by decide

theorem test_witness_UnusedFieldsIgnored : (0x4C244000 : Word) &&& usedMask 0x4C244000 = 0x4C247FFF &&& usedMask 0x4C244000 ∧
    (0x4C244000 : Word) &&& usedMask 0x4C244000 = 0x4C247FFF &&& usedMask 0x4C247FFF ∧
    (Instr.outImm 16383 0).wellFormed = true := by decide

theorem test_witness_IllFormedWordsExactly :
    IllFormedWord 0xFFFFFFFF ∧ IllFormedWord 0x4C000000 ∧ ¬ IllFormedWord 0x00000000 ∧ ¬ IllFormedWord 0x4E200000 := by
  unfold IllFormedWord; decide

/-- One word (`RET`) and two words (`JMP`). -/
theorem test_witness_StepRunsDecodedInstruction :
    (let s := running 0x10000000 0
     s.halt = false ∧ s.wait = false ∧ s.nextSignal = .cycle ∧ (s.busRead s.pc).1 = some 0x10000000 ∧
      (0x10000000 : Word).getLsbD 25 = false ∧ decode [0x10000000] = .ok (.ret, [])) ∧
    (let s := running 0x0A000000 0x20000010
     let s1 := { (s.busRead s.pc).2 with ir := 0x0A000000, pc := s.pc + 1 }
     s.halt = false ∧ s.wait = false ∧ s.nextSignal = .cycle ∧ (s.busRead s.pc).1 = some 0x0A000000 ∧
      (0x0A000000 : Word).getLsbD 25 = true ∧ (s1.busRead (s.pc + 1)).1 = some 0x20000010 ∧
      decode [0x0A000000, 0x20000010] = .ok (.jmpImm 0x20000010, [])) :=
  ⟨⟨rfl, rfl, rfl, rfl, rfl, rfl⟩, rfl, rfl, rfl, rfl, rfl, rfl, rfl⟩

/-- `MOV` mode 0 with bit 25 clear, and `POW` with bit 25 set; both are refused. -/
theorem test_witness_StepStopsExactlyOnIllFormedWords :
    ((0x4C000000 : Word).getLsbD 25 = false ∧ step (running 0x4C000000 7) = .refused (.illFormed 0x101 0x4C000000 0)) ∧
    ((0xFFFFFFFF : Word).getLsbD 25 = true ∧ step (running 0xFFFFFFFF 7) = .refused (.illFormed 0x102 0xFFFFFFFF 7)) :=
  ⟨⟨rfl, rfl⟩, rfl, rfl⟩

/-- A fetch at an address the environment refuses, and an immediate one address past the end of RAM. -/
theorem test_witness_FailedFetchRaisesInvalidMemoryRead :
    (let s := { at100 [] [] [none] with pc := device }
     s.halt = false ∧ s.wait = false ∧ s.nextSignal = .cycle ∧ (s.busRead s.pc).1 = none) ∧
    (let s := { at100 [] [(0x3FFFFF, 0x0A000000)] [none] with pc := 0x3FFFFF }
     let s1 := { (s.busRead s.pc).2 with ir := 0x0A000000, pc := s.pc + 1 }
     (s.busRead s.pc).1 = some 0x0A000000 ∧ (0x0A000000 : Word).getLsbD 25 = true ∧
      (s1.busRead (s.pc + 1)).1 = none) := by decide

theorem test_witness_CycleIgnoredWhileFlagSet :
    (let s := { at100 [] with halt := true }; s.nextSignal = .cycle ∧ s.halt = true) ∧
    (let s := { at100 [] with wait := true }; s.nextSignal = .cycle ∧ s.wait = true) := by decide

theorem test_witness_FrameSignalClearsWait :
    { at100 [] with halt := true, wait := true, signals := [.frame] }.nextSignal = .frame := by decide

theorem test_witness_ResetSignalResponse :
    { at100 [(1, 7)] with halt := true, signals := [.reset, .cycle] }.nextSignal = .reset := by decide

theorem test_witness_RamReadsWhatWasWritten :
    (0x003FFFFF : Word).toNat ≤ 0x003FFFFF ∧ (0x00000000 : Word).toNat ≤ 0x003FFFFF := by decide

/-- A store by the instruction fetched (`MOV [0x101], R2`), so that memory changes. -/
theorem test_witness_StepKeepsMemoryCanonical :
    (running 0x4E054000 0x101).mem.wf = true ∧
    ∃ t, step (running 0x4E054000 0x101) = .next t ∧ t.mem = [(0x100, 0x4E054000), (0x101, 0)] := ⟨rfl, _, rfl, rfl⟩

theorem test_witness_StepKeepsFlagsExclusive :
    ¬ ((running 0x04000000 0).halt = true ∧ (running 0x04000000 0).wait = true) ∧
    ∃ t, step (running 0x04000000 0) = .next t ∧ t.wait = true := ⟨by decide, _, rfl, rfl⟩

/-- Set by `HLT`, cleared by reset, kept on a cycle signal. -/
theorem test_witness_HaltFlagSources :
    ((running 0 0).halt = false ∧ ∃ t, step (running 0 0) = .next t ∧ t.halt = true) ∧
    (∃ t, step { at100 [] with halt := true, signals := [.reset] } = .next t ∧ t.halt = false) ∧
    (∃ t, step { at100 [] with halt := true } = .next t ∧ t.halt = true) :=
  ⟨⟨rfl, _, rfl, rfl⟩, ⟨_, rfl, rfl⟩, _, rfl, rfl⟩

/-- Set by `WAIT`, cleared by a frame and by reset, kept on a cycle signal. -/
theorem test_witness_WaitFlagSources :
    ((running 0x04000000 0).wait = false ∧ ∃ t, step (running 0x04000000 0) = .next t ∧ t.wait = true) ∧
    (∃ t, step { at100 [] with wait := true, signals := [.frame] } = .next t ∧ t.wait = false) ∧
    (∃ t, step { at100 [] with wait := true, signals := [.reset] } = .next t ∧ t.wait = false) ∧
    (∃ t, step { at100 [] with wait := true } = .next t ∧ t.wait = true) :=
  ⟨⟨rfl, _, rfl, rfl⟩, ⟨_, rfl, rfl⟩, ⟨_, rfl, rfl⟩, _, rfl, rfl⟩

/-- Three requests in one step: two fetches and the store of `MOV [0x101], R2`. -/
theorem test_witness_StepRecordsEveryRequestOnce :
      (∃ t, step (running 0x4E054000 0x101) = .next t ∧ t.history.length = 4) ∧
    (stepRequests (running 0x4E054000 0x101)).map (·.1) =
      [.memRead 0x100, .memRead 0x101, .memWrite 0x101 ((running 0x4E054000 0x101).reg 2)] :=
  ⟨⟨_, rfl, rfl⟩, by decide⟩

theorem test_witness_ExecStoresOnlyAtStoreAddress :
    (∃ t, exec (.push 1) (at100 []) = .next t) ∧ storeAddress (.push 1) (at100 []) ≠ some 0x3FFFFE ∧
    (∃ t, exec (.pop 1) (at100 [(15, 0)] [(1, 7)]) = .next t) ∧ storeAddress (.pop 1) (at100 []) ≠ some 1 :=
  ⟨⟨_, rfl⟩, by decide, ⟨_, rfl⟩, by decide⟩

theorem test_witness_ConditionalJumps :
    (at100 [(1, 0x80000000)]).reg 1 ≠ 0 ∧ (at100 [(1, 0)]).reg 1 = 0 := by decide

/-- SP = 1 is the least SP from which a push stays; a store outside RAM is the environment's to take. -/
theorem test_witness_CallPushesReturnAddress :
    (let s := at100 [(15, 1)]; (s.busWrite (s.reg 15) s.pc).1 = true ∧ 0 ≤ (s.reg 15 - 1).toInt) ∧
    (let s := at100 [(15, device)] [] [some 0]
     (s.busWrite (s.reg 15) s.pc).1 = true ∧ 0 ≤ (s.reg 15 - 1).toInt) := by decide

theorem test_witness_RetPopsProgramCounter :
    (let s := at100 [(15, 0x3FFFFE)] [(0x3FFFFF, 0x102)]
     (s.reg 15 + 1).toInt ≤ 0x003FFFFF ∧ (s.busRead (s.reg 15 + 1)).1 = some 0x102) ∧
    (let s := at100 [(15, 0xFFFFFFFF)] [(0, 0x102)]
     (s.reg 15 + 1).toInt ≤ 0x003FFFFF ∧ (s.busRead (s.reg 15 + 1)).1 = some 0x102) := by decide

theorem test_witness_CallThenRetReturns :
    ((at100 []).reg 15).toNat ≤ 0x003FFFFF ∧ (at100 []).reg 15 ≠ 0 ∧
    ((at100 [(15, 1)]).reg 15).toNat ≤ 0x003FFFFF ∧ (at100 [(15, 1)]).reg 15 ≠ 0 ∧
    (∃ t, exec (.callImm 0x300) (at100 []) = .next t) ∧ ∃ t, exec (.callReg 15) (at100 [(15, 1)]) = .next t :=
  ⟨by decide, by decide, by decide, by decide, ⟨_, rfl⟩, _, rfl⟩

theorem test_witness_MovLoads :
    ((at100 [(2, 0x3FFFFE)] [(1, 9)]).busRead 1).1 = some 9 := by decide
theorem test_witness_MovLoads_register :
    ((at100 [(2, 0x3FFFFF)] [(0x3FFFFF, 9)]).busRead ((at100 [(2, 0x3FFFFF)]).reg 2)).1 = some 9 := by decide
/-- A sum that wraps past 2^32. -/
theorem test_witness_MovLoads_sum :
    ((at100 [(2, 3)] [(2, 9)]).busRead (BitVec.ofNat 32 (((at100 [(2, 3)]).reg 2).toNat + 0xFFFFFFFF))).1 = some 9 := by
  decide

theorem test_witness_MovStores :
    ((at100 [(1, 0x3FFFFF), (2, 7)]).busWrite 0x100 7).1 = true ∧
    ((at100 [(1, 0x3FFFFF), (2, 7)]).busWrite 0x3FFFFF 7).1 = true ∧
    ((at100 [(1, device), (2, 7)] [] [some 0]).busWrite (BitVec.ofNat 32 (device.toNat + 1)) 7).1 = true := by decide

theorem test_witness_PushStoresAndDecrements :
    let s := at100 [(1, 7), (15, 1)]
    (s.busWrite (s.reg 15) (s.reg 1)).1 = true ∧ 0 ≤ (s.reg 15 - 1).toInt := by decide

/-- A register other than SP, and SP itself. -/
theorem test_witness_PopLoadsAndIncrements :
    let s := at100 [(15, 0x3FFFFE)] [(0x3FFFFF, 0x55)]
    (s.reg 15 + 1).toInt ≤ 0x003FFFFF ∧ (s.busRead (s.reg 15 + 1)).1 = some 0x55 ∧ (2 : Reg) ≠ 15 := by decide

theorem test_witness_PushThenPopMoves :
    ((at100 []).reg 15).toNat ≤ 0x003FFFFF ∧ (at100 []).reg 15 ≠ 0 ∧ (∃ t, exec (.push 1) (at100 []) = .next t) ∧
    ((at100 [(15, 1)]).reg 15).toNat ≤ 0x003FFFFF ∧ (at100 [(15, 1)]).reg 15 ≠ 0 ∧
    (∃ t, exec (.push 1) (at100 [(15, 1)]) = .next t) ∧ (2 : Reg) ≠ 15 :=
  ⟨by decide, by decide, ⟨_, rfl⟩, by decide, by decide, ⟨_, rfl⟩, by decide⟩

theorem test_witness_PortAccess :
    (at100 [] [] [some 5]).answerTo (.portWrite 16383 1) = some 5 ∧
    (at100 [(1, 1)] [] [some 5]).answerTo (.portWrite 0 ((at100 [(1, 1)]).reg 1)) = some 5 ∧
    (at100 [] [] [some 5]).answerTo (.portRead 16383) = some 5 := by decide

theorem test_witness_MovsIteration :
    let s := at100 [(11, 1), (12, 0x200), (13, 0x3FFFFF)] [(0x200, 9)]
    (s.busRead (s.reg 12)).1 = some 9 ∧ ((s.busRead (s.reg 12)).2.busWrite (s.reg 13) 9).1 = true := by decide

theorem test_witness_SetsIteration :
    let s := at100 [(11, 2), (12, 9), (13, 0x3FFFFF)]
    (s.busWrite (s.reg 13) (s.reg 12)).1 = true := by decide

/-- Equal words and different ones. -/
theorem test_witness_CmpsIteration :
    let s := at100 [(11, 1), (12, 0x200), (13, 0x300)] [(0x200, 9), (0x300, 9)]
    let u := at100 [(11, 1), (12, 0x200), (13, 0x300)] [(0x200, 9), (0x300, 8)]
    ((s.busRead (s.reg 13)).1 = some 9 ∧ ((s.busRead (s.reg 13)).2.busRead (s.reg 12)).1 = some 9) ∧
    ((u.busRead (u.reg 13)).1 = some 8 ∧ ((u.busRead (u.reg 13)).2.busRead (u.reg 12)).1 = some 9) := by decide

/-- A state at 0x100 that holds the word of a string instruction, and three words to read. -/
def stringAt (w : Word) (n : Nat) (src dst : Word) : State :=
  at100 [(11, BitVec.ofNat 32 n), (12, src), (13, dst)] [(0xFE, 7), (0x100, w), (0x3FFFFE, 7), (0x3FFFFF, 8)]

/-- The last word of RAM filled by one cycle, with `pc` below it, and two words filled just below `pc`; two words
copied over themselves one up, and down to just below `pc`. -/
theorem test_witness_StringRuns_writing :
    (StringReady 0x68000000 1 (stringAt 0x68000000 1 9 0x3FFFFF) ∧ RamRange 0x3FFFFF 1 ∧
      ¬ InRange 0x3FFFFF 1 (stringAt 0x68000000 1 9 0x3FFFFF).pc) ∧
    (StringReady 0x68000000 2 (stringAt 0x68000000 2 9 0xFE) ∧ RamRange 0xFE 2 ∧
      ¬ InRange 0xFE 2 (stringAt 0x68000000 2 9 0xFE).pc) ∧
    (StringReady 0x64000000 2 (stringAt 0x64000000 2 0x3FFFFD 0x3FFFFE) ∧ RamRange 0x3FFFFD 2 ∧ RamRange 0x3FFFFE 2 ∧
      ¬ InRange 0x3FFFFE 2 (stringAt 0x64000000 2 0x3FFFFD 0x3FFFFE).pc) ∧
    (StringReady 0x64000000 2 (stringAt 0x64000000 2 0x3FFFFE 0xFE) ∧ RamRange 0x3FFFFE 2 ∧ RamRange 0xFE 2 ∧
      ¬ InRange 0xFE 2 (stringAt 0x64000000 2 0x3FFFFE 0xFE).pc) := by
  refine ⟨⟨⟨?_, ?_, ?_, ?_, ?_, ?_, ?_⟩, ?_, ?_⟩, ⟨⟨?_, ?_, ?_, ?_, ?_, ?_, ?_⟩, ?_, ?_⟩,
    ⟨⟨?_, ?_, ?_, ?_, ?_, ?_, ?_⟩, ?_, ?_, ?_⟩, ⟨?_, ?_, ?_, ?_, ?_, ?_, ?_⟩, ?_, ?_, ?_⟩ <;>
    first | decide | (unfold RamRange; decide) | (unfold InRange; decide)

/-- One equal pair, and then one that differs. -/
theorem test_witness_StringRuns_comparing :
    let s := stringAt 0x6C200000 2 0x3FFFFE 0x3FFFFE
    let u := stringAt 0x6C200000 1 0x3FFFFF 0xFE
    (1 : Reg) ∉ ([11, 12, 13] : List Reg) ∧ BitVec.ofNat 32 (0x6C000000 + (1 : Reg).val * 2 ^ 21) = (0x6C200000 : Word) ∧
    (StringReady 0x6C200000 2 s ∧ RamRange 0x3FFFFE 2 ∧ s.peek (0x3FFFFE + BitVec.ofNat 32 0) = some 7) ∧
    (StringReady 0x6C200000 1 u ∧ RamRange 0x3FFFFF 1 ∧ RamRange 0xFE 1 ∧
      u.peek (0xFE + BitVec.ofNat 32 0) = some 7 ∧ u.peek (0x3FFFFF + BitVec.ofNat 32 0) = some 8) := by
  refine ⟨?_, ?_, ⟨⟨?_, ?_, ?_, ?_, ?_, ?_, ?_⟩, ?_, ?_⟩, ⟨?_, ?_, ?_, ?_, ?_, ?_, ?_⟩, ?_, ?_, ?_, ?_⟩ <;>
    first | decide | (unfold RamRange; decide)

/-! The floats of the witnesses: 0xC0700000 is -3.75, 0xCF000000 is -2^31, 0x7F800000 and 0xFF800000 are the
infinities, 0x7FC00000 is a NaN. -/

/-- The value of 0xC0700000 is -3.75. -/
theorem floatValue_example : floatValue 0xC0700000 = -15 / 4 := by
  have h1 : expBits 0xC0700000 = 128 := by decide
  have h2 : fracBits 0xC0700000 = 7340032 := by decide
  have h3 : (0xC0700000 : Word).getLsbD 31 = true := by decide
  rw [floatValue, h1, h2, h3]; norm_num

/-- The value of 0xCF000000 is -2^31. -/
theorem floatValue_least : floatValue 0xCF000000 = -2147483648 := by
  have h1 : expBits 0xCF000000 = 158 := by decide
  have h2 : fracBits 0xCF000000 = 0 := by decide
  have h3 : (0xCF000000 : Word).getLsbD 31 = true := by decide
  rw [floatValue, h1, h2, h3]; norm_num

/-- The values of 1.0 and -1.0. -/
theorem floatValue_one : floatValue 0x3F800000 = 1 ∧ floatValue 0xBF800000 = -1 := by
  have h1 : expBits 0x3F800000 = 127 := by decide
  have h2 : fracBits 0x3F800000 = 0 := by decide
  have h3 : (0x3F800000 : Word).getLsbD 31 = false := by decide
  have h4 : expBits 0xBF800000 = 127 := by decide
  have h5 : fracBits 0xBF800000 = 0 := by decide
  have h6 : (0xBF800000 : Word).getLsbD 31 = true := by decide
  rw [floatValue, floatValue, h1, h2, h3, h4, h5, h6]; norm_num

/-- The values of the zeros. -/
theorem floatValue_zero : floatValue 0x00000000 = 0 ∧ floatValue 0x80000000 = 0 := by
  have h1 : expBits 0x00000000 = 0 := by decide
  have h2 : fracBits 0x00000000 = 0 := by decide
  have h4 : expBits 0x80000000 = 0 := by decide
  have h5 : fracBits 0x80000000 = 0 := by decide
  rw [floatValue, floatValue, h1, h2, h4, h5]; norm_num

/-- The extended value of a finite float. -/
theorem extendedValue_finite (w : Word) (h : IsFinite w) :
    extendedValue w = (((floatValue w : ℚ) : WithTop ℚ) : WithBot (WithTop ℚ)) := by
  have : ¬ IsInfinity w := fun e => h e.1
  rw [extendedValue, if_neg this]

/-- An ordinary value and the least integer. -/
theorem test_witness_CfiTruncates :
    (IsFinite 0xC0700000 ∧ (-2 ^ 31 : Int) ≤ -3 ∧ (-3 : Int) < 2 ^ 31 ∧
      |((-3 : Int) : ℚ)| ≤ |floatValue 0xC0700000| ∧ |floatValue 0xC0700000| < |((-3 : Int) : ℚ)| + 1 ∧
      0 ≤ ((-3 : Int) : ℚ) * floatValue 0xC0700000) ∧
    (IsFinite 0xCF000000 ∧ (-2 ^ 31 : Int) ≤ -2 ^ 31 ∧
      |((-2 ^ 31 : Int) : ℚ)| ≤ |floatValue 0xCF000000| ∧
      |floatValue 0xCF000000| < |((-2 ^ 31 : Int) : ℚ)| + 1 ∧
      0 ≤ ((-2 ^ 31 : Int) : ℚ) * floatValue 0xCF000000) := by
  rw [floatValue_example, floatValue_least]
  refine ⟨⟨by decide, by decide, by decide, ?_, ?_, ?_⟩, by decide, by decide, ?_, ?_, ?_⟩ <;> norm_num [abs_of_neg]

theorem test_witness_IntegerMinMaxAbs :
    (at100 [(1, 0x80000001)]).reg 1 ≠ 0x80000000 ∧ (at100 [(1, 0x80000000)]).reg 1 = 0x80000000 := by decide

/-- The two neighbours of the one pair whose quotient is free. -/
theorem test_witness_IntegerDivision :
    (0xFFFFFFFF : Word) ≠ 0 ∧ ¬ ((at100 [(1, 0x80000001)]).reg 1 = 0x80000000 ∧ (0xFFFFFFFF : Word) = 0xFFFFFFFF) ∧
    (0x00000001 : Word) ≠ 0 ∧ ¬ ((at100 [(1, 0x80000000)]).reg 1 = 0x80000000 ∧ (0x00000001 : Word) = 0xFFFFFFFF) ∧
    (at100 [(2, 1)]).reg 2 ≠ 0 := by decide

/-- The largest finite float, a NaN, opposite infinities, zeros of both signs, the least subnormal. -/
theorem test_witness_FloatAddSubMul :
    IsFinite ((at100 [(1, 0x7F7FFFFF)]).reg 1) ∧ IsFinite 0x00000001 ∧ IsNaN ((at100 [(1, 0x7F800001)]).reg 1) ∧
    (IsInfinity 0x7F800000 ∧ IsInfinity 0xFF800000 ∧ (0x7F800000 : Word) ≠ 0xFF800000) ∧
    floatValue 0x00000000 + floatValue 0x80000000 = 0 ∧
    (¬ IsNaN 0x00000001 ∧ (0x00000001 : Word) ≠ 0x00000000 ∧ (0x00000001 : Word) ≠ 0x80000000) := by
  rw [floatValue_zero.1, floatValue_zero.2]
  exact ⟨by decide, by decide, by decide, by decide, by norm_num, by decide⟩

/-- The least divisor, a NaN divisor, an infinite dividend and an infinite divisor. -/
theorem test_witness_FloatDivision :
    (0x00000001 : Word) ≠ 0x00000000 ∧ (0x00000001 : Word) ≠ 0x80000000 ∧ IsFinite 0x00000001 ∧
    IsFinite ((at100 [(1, 0x7F7FFFFF)]).reg 1) ∧
    (0x7FC00000 : Word) ≠ 0x00000000 ∧ (0x7FC00000 : Word) ≠ 0x80000000 ∧ IsNaN 0x7FC00000 ∧
    IsInfinity ((at100 [(1, 0xFF800000)]).reg 1) ∧ IsInfinity 0x7F800000 := by decide

theorem test_witness_FloatToIntegralValue :
    IsFinite ((at100 [(1, 0x7F7FFFFF)]).reg 1) ∧ ¬ IsFinite ((at100 [(1, 0x7F800000)]).reg 1) := by decide

/-- A NaN and 1.0 for `LOG`; a NaN base, a zero base, an infinite exponent and an integer exponent for `POW`. -/
theorem test_witness_SinLogPowComplete :
    ¬ IsFinite 0xFF800000 ∧ IsNaN 0x7FC00000 ∧ 0 < extendedValue 0x3F800000 ∧ IsInfinity 0x7F800000 ∧
    (0 : WithBot (WithTop ℚ)) ≤ extendedValue 0x80000000 ∧
    (IsFinite 0x3F800000 ∧ ∃ n : Int, floatValue 0x3F800000 = n) ∧
    (¬ IsNaN 0xBF800000 ∧ extendedValue 0xBF800000 < 0) := by
  refine ⟨by decide, by decide, ?_, by decide, ?_, ⟨by decide, 1, by rw [floatValue_one.1]; norm_num⟩, by decide, ?_⟩
  · rw [extendedValue_finite _ (by decide), floatValue_one.1]
    exact WithBot.coe_lt_coe.2 (WithTop.coe_lt_coe.2 (by norm_num))
  · rw [extendedValue_finite _ (by decide), floatValue_zero.2]
    exact WithBot.coe_le_coe.2 (WithTop.coe_le_coe.2 (le_refl _))
  · rw [extendedValue_finite _ (by decide), floatValue_one.2]
    exact WithBot.coe_lt_coe.2 (WithTop.coe_lt_coe.2 (by norm_num))

/-- Both ends of the range of `ACOS`; for `ATAN2` one operand a zero, and a positive and a negative Vx, with either of
which an equal Vy, a zero Vy or any other goes. -/
theorem test_witness_AcosAtan2Ranges :
    (IsFinite 0x3F800000 ∧ |floatValue 0x3F800000| ≤ 1) ∧ (IsFinite 0xBF800000 ∧ |floatValue 0xBF800000| ≤ 1) ∧
    ¬ (((0x00000001 : Word) = 0x00000000 ∨ (0x00000001 : Word) = 0x80000000) ∧
      ((0x80000000 : Word) = 0x00000000 ∨ (0x80000000 : Word) = 0x80000000)) ∧
    ¬ IsNaN 0x00000001 ∧ ¬ IsNaN 0x80000000 ∧
    (¬ IsNaN 0x3F800000 ∧ extendedValue 0x3F800000 > 0) ∧ (¬ IsNaN 0xBF800000 ∧ extendedValue 0xBF800000 < 0) := by
  have hp : extendedValue 0x3F800000 > 0 := by
    rw [extendedValue_finite _ (by decide), floatValue_one.1]
    exact WithBot.coe_lt_coe.2 (WithTop.coe_lt_coe.2 (by norm_num))
  have hn : extendedValue 0xBF800000 < 0 := by
    rw [extendedValue_finite _ (by decide), floatValue_one.2]
    exact WithBot.coe_lt_coe.2 (WithTop.coe_lt_coe.2 (by norm_num))
  rw [floatValue_one.1, floatValue_one.2]
  exact ⟨⟨by decide, by norm_num⟩, ⟨by decide, by norm_num⟩, by decide, by decide, by decide, ⟨by decide, hp⟩,
    by decide, hn⟩

/-- Each clause: the zeros, -3.75 outside [-1, 1], 0.0 and -3.75 not above zero, a base of -3.75 with the exponents
-3.75 and a NaN. -/
theorem test_witness_MathematicalErrors :
    (at100 [(2, 0)]).reg 2 = 0 ∧ (at100 [(2, 0x80000000)]).reg 2 = 0x80000000 ∧ IsNaN 0x7FC00000 ∧
    IsInfinity 0xFF800000 ∧ 1 < |floatValue 0xC0700000| ∧
    (¬ IsNaN 0x80000000 ∧ extendedValue 0x80000000 ≤ 0) ∧
    (¬ IsNaN 0xC0700000 ∧ extendedValue 0xC0700000 < 0 ∧ IsFinite 0xC0700000 ∧
      ∀ n : Int, floatValue 0xC0700000 ≠ n) := by
  have hv : extendedValue 0xC0700000 < 0 := by
    rw [extendedValue_finite _ (by decide), floatValue_example]
    exact WithBot.coe_lt_coe.2 (WithTop.coe_lt_coe.2 (by norm_num))
  have hz : extendedValue 0x80000000 ≤ 0 := by
    rw [extendedValue_finite _ (by decide), floatValue_zero.2]
    exact WithBot.coe_le_coe.2 (WithTop.coe_le_coe.2 (le_refl _))
  refine ⟨by decide, by decide, by decide, by decide, ?_, ⟨by decide, hz⟩, by decide, hv, by decide, fun n h => ?_⟩
  · rw [floatValue_example]; norm_num [abs_of_neg]
  · rw [floatValue_example] at h
    have h2 : ((-15 : Int) : ℚ) = ((4 * n : Int) : ℚ) := by push_cast; linarith
    have h3 : (-15 : Int) = 4 * n := by exact_mod_cast h2
    omega

/-- The environment refuses each kind of request. -/
theorem test_witness_BusErrorsOfMoves :
    let s := at100 [(1, device), (2, device)] [] [none]
    (s.busRead device).1 = none ∧ (s.busRead (s.reg 2)).1 = none ∧
    (s.busRead (BitVec.ofNat 32 ((s.reg 2).toNat + 1))).1 = none ∧
    (s.busWrite device (s.reg 2)).1 = false ∧ (s.busWrite (s.reg 1) (s.reg 2)).1 = false ∧
    (s.busWrite (BitVec.ofNat 32 ((s.reg 1).toNat + 1)) (s.reg 2)).1 = false ∧
    s.answerTo (.portRead 16383) = none ∧ s.answerTo (.portWrite 0 1) = none ∧
    s.answerTo (.portWrite 0 (s.reg 1)) = none := by decide

/-- A refused push, a push at 0, a pop at 0x003FFFFF, and a pop whose read, at a negative SP, is refused. -/
theorem test_witness_StackErrors :
    (let s := at100 [(15, device)] [] [none]; (s.busWrite (s.reg 15) 7).1 = false) ∧
    (let s := at100 [(15, 0)]; (s.busWrite (s.reg 15) 7).1 = true ∧ (s.reg 15 - 1).toInt < 0) ∧
    (let s := at100 [(15, 0x3FFFFF)]; (s.reg 15 + 1).toInt > 0x003FFFFF) ∧
    (let s := at100 [(15, 0x80000000)] [] [none]
     (s.reg 15 + 1).toInt ≤ 0x003FFFFF ∧ (s.busRead (s.reg 15 + 1)).1 = none) := by decide

theorem test_witness_StringErrors :
    (let s := at100 [(12, device), (13, device)] [] [none]
     (s.busRead (s.reg 12)).1 = none ∧ (s.busWrite (s.reg 13) (s.reg 12)).1 = false ∧
      (s.busRead (s.reg 13)).1 = none) ∧
    (let s := at100 [(12, 0x200), (13, device)] [(0x200, 9)] [none]
     (s.busRead (s.reg 12)).1 = some 9 ∧ ((s.busRead (s.reg 12)).2.busWrite (s.reg 13) 9).1 = false) ∧
    (let s := at100 [(12, device), (13, 0x300)] [(0x300, 9)] [none]
     (s.busRead (s.reg 13)).1 = some 9 ∧ ((s.busRead (s.reg 13)).2.busRead (s.reg 12)).1 = none) := by decide

end Sys2Proof.Machine.Tests
end

/-! The state after reset, and where the two control flags come from (spec/10_state.md R30, R31, R36). -/

namespace Sys2Proof

/-! ### The words that decode to HLT and to WAIT -/

/-- A one-variant opcode decodes exactly where bit 25 is clear (R91, R94). -/
theorem oneVariant_eq_ok {op : Opcode} {useimm : Bool} {i j : Instr} :
    oneVariant op useimm i = .ok j ↔ useimm = false ∧ i = j := by
  cases useimm <;> simp [oneVariant]

/-- A two-variant opcode always decodes, to the variant bit 25 chooses (R91). -/
theorem twoVariants_eq_ok {useimm : Bool} {withImm withReg j : Instr} :
    twoVariants useimm withImm withReg = .ok j ↔
      useimm = true ∧ withImm = j ∨ useimm = false ∧ withReg = j := by
  cases useimm <;> simp [twoVariants]

theorem decodeMov_ne_control {mode : Nat} {useimm : Bool} {r1 r2 : Reg} {imm : Word} :
    decodeMov mode useimm r1 r2 imm ≠ .ok .hlt ∧ decodeMov mode useimm r1 r2 imm ≠ .ok .wait := by
  unfold decodeMov
  split <;> simp

/-- HLT and WAIT are the one-word instructions of their own opcodes, and of no others (R90, R91). -/
theorem decodeVariant_eq_control {op : Opcode} {useimm : Bool} {r1 r2 : Reg} {mode port : Nat} {imm : Word} :
    (decodeVariant op useimm r1 r2 mode port imm = .ok .hlt ↔ op = .hlt ∧ useimm = false) ∧
    (decodeVariant op useimm r1 r2 mode port imm = .ok .wait ↔ op = .wait ∧ useimm = false) := by
  cases op
  case mov => simpa [decodeVariant] using decodeMov_ne_control
  all_goals simp [decodeVariant, oneVariant_eq_ok, twoVariants_eq_ok]

theorem decodeWord_eq_hlt {w imm : Word} :
    decodeWord w imm = .ok .hlt ↔ opcodeOf w = .hlt ∧ usesImmediate w = false := decodeVariant_eq_control.1

theorem decodeWord_eq_wait {w imm : Word} :
    decodeWord w imm = .ok .wait ↔ opcodeOf w = .wait ∧ usesImmediate w = false := decodeVariant_eq_control.2

theorem decode_of_not_usesImmediate {w : Word} {rest : List Word} (h : usesImmediate w = false) :
    decode (w :: rest) = (decodeWord w 0).map (·, rest) := by
  simp [decode, h]

/-- A word that the machine takes for HLT, whatever `Imm` holds, is the one word of an HLT. -/
theorem decode_hlt {w imm : Word} (h : decodeWord w imm = .ok .hlt) : decode [w] = .ok (.hlt, []) := by
  have hw := decodeWord_eq_hlt.1 h
  rw [decode_of_not_usesImmediate hw.2, decodeWord_eq_hlt.2 hw]
  rfl

/-- A word that the machine takes for WAIT, whatever `Imm` holds, is the one word of a WAIT. -/
theorem decode_wait {w imm : Word} (h : decodeWord w imm = .ok .wait) : decode [w] = .ok (.wait, []) := by
  have hw := decodeWord_eq_wait.1 h
  rw [decode_of_not_usesImmediate hw.2, decodeWord_eq_wait.2 hw]
  rfl

namespace Machine

/-! ### The state in which a signal is answered -/

/-- The signal `g` is taken off the schedule and recorded: the state `step` answers it in. -/
def State.taking (s : State) (g : Signal) : State :=
  { s with signals := s.signals.tail, history := .signal g :: s.history }

@[simp] theorem State.taking_regs (s : State) (g : Signal) : (s.taking g).regs = s.regs := rfl
@[simp] theorem State.taking_pc (s : State) (g : Signal) : (s.taking g).pc = s.pc := rfl
@[simp] theorem State.taking_ir (s : State) (g : Signal) : (s.taking g).ir = s.ir := rfl
@[simp] theorem State.taking_imm (s : State) (g : Signal) : (s.taking g).imm = s.imm := rfl
@[simp] theorem State.taking_halt (s : State) (g : Signal) : (s.taking g).halt = s.halt := rfl
@[simp] theorem State.taking_wait (s : State) (g : Signal) : (s.taking g).wait = s.wait := rfl
@[simp] theorem State.taking_mem (s : State) (g : Signal) : (s.taking g).mem = s.mem := rfl
@[simp] theorem State.taking_signals (s : State) (g : Signal) : (s.taking g).signals = s.signals.tail := rfl
@[simp] theorem State.taking_answers (s : State) (g : Signal) : (s.taking g).answers = s.answers := rfl
@[simp] theorem State.taking_history (s : State) (g : Signal) :
    (s.taking g).history = .signal g :: s.history := rfl
@[simp] theorem State.taking_reg (s : State) (g : Signal) (q : Reg) : (s.taking g).reg q = s.reg q := rfl
@[simp] theorem State.taking_peek (s : State) (g : Signal) (a : Word) : (s.taking g).peek a = s.peek a := rfl

@[simp] theorem State.taking_stopped (s : State) (g : Signal) : (s.taking g).stopped = s.stopped := rfl

theorem State.stopped_eq_false {s : State} : s.stopped = false ↔ s.halt = false ∧ s.wait = false := by
  simp [State.stopped]

/-! ### What a step does, by the signal -/

theorem step_reset {s : State} (h : s.nextSignal = .reset) : step s = .next (s.taking .reset).resetSignal := by
  rw [step_eq, h]; rfl

theorem step_frame {s : State} (h : s.nextSignal = .frame) : step s = .next (s.taking .frame).frameSignal := by
  rw [step_eq, h]; rfl

theorem step_cycle {s : State} (h : s.nextSignal = .cycle) : step s = cycleSignal (s.taking .cycle) := by
  rw [step_eq, h]; rfl

theorem step_cycle_stopped {s : State} (h : s.nextSignal = .cycle) (hs : s.stopped = true) :
    step s = .next (s.taking .cycle) :=
  (step_cycle h).trans (if_pos hs)

theorem step_cycle_running {s : State} (h : s.nextSignal = .cycle) (hs : s.stopped = false) :
    step s = fetch (s.taking .cycle) execute :=
  (step_cycle h).trans (if_neg (by simp [hs]))

/-- All that a step with a next state does: one of the three responses, where a cycle signal is ignored or runs one
processing cycle (R269 to R271). -/
theorem step_cases {s t : State} (h : step s = .next t) :
    (s.nextSignal = .reset ∧ t = (s.taking .reset).resetSignal) ∨
    (s.nextSignal = .frame ∧ t = (s.taking .frame).frameSignal) ∨
    (s.nextSignal = .cycle ∧ s.stopped = true ∧ t = s.taking .cycle) ∨
    (s.nextSignal = .cycle ∧ s.stopped = false ∧ fetch (s.taking .cycle) execute = .next t) := by
  cases hq : s.nextSignal with
  | reset => rw [step_reset hq] at h; cases h; simp
  | frame => rw [step_frame hq] at h; cases h; simp
  | cycle =>
    cases hs : s.stopped with
    | true => rw [step_cycle_stopped hq hs] at h; cases h; simp
    | false => rw [step_cycle_running hq hs] at h; simp [h]

/-! ### What an instruction and a processing cycle do to the flags -/

theorem keeps_halt {i : Instr} (hi : i ≠ .hlt) (b : Bool) : Keeps i (·.halt = b) where
  setReg _ _ _ h := h
  setPc _ _ h := h
  busRead s a h := (s.busRead_halt a).trans h
  busWrite s a v h := (s.busWrite_halt a v).trans h
  ask _ _ h := h
  setHalt e := absurd e hi
  setWait _ _ h := h

theorem keeps_wait {i : Instr} (hi : i ≠ .wait) (b : Bool) : Keeps i (·.wait = b) where
  setReg _ _ _ h := h
  setPc _ _ h := h
  busRead s a h := (s.busRead_wait a).trans h
  busWrite s a v h := (s.busWrite_wait a v).trans h
  ask _ _ h := h
  setHalt _ _ h := h
  setWait e := absurd e hi

/-- No instruction but HLT changes the Halt flag (R30, R32). -/
theorem exec_halt {i : Instr} {s t : State} (hi : i ≠ .hlt) (h : exec i s = .next t) : t.halt = s.halt :=
  (keeps_halt hi s.halt).exec rfl t h

/-- No instruction but WAIT changes the Wait flag (R31, R32). -/
theorem exec_wait {i : Instr} {s t : State} (hi : i ≠ .wait) (h : exec i s = .next t) : t.wait = s.wait :=
  (keeps_wait hi s.wait).exec rfl t h

/-- What a processing cycle can do to the flags: a failed fetch leaves both, and otherwise they are what the
instruction of the word at `pc` makes of them. -/
theorem fetch_flags {s t : State} (h : fetch s execute = .next t) :
    (t.halt = s.halt ∧ t.wait = s.wait) ∨
    ∃ w v i u, (s.busRead s.pc).1 = some w ∧ decodeWord w v = .ok i ∧ u.halt = s.halt ∧ u.wait = s.wait ∧
      exec i u = .next t := by
  obtain ⟨-, rfl⟩ | ⟨w, hw, ⟨-, i, hi, hx⟩ | ⟨-, ⟨-, rfl⟩ | ⟨v, i, -, hi, hx⟩⟩⟩ := fetch_cases h
  · left; simp
  · exact .inr ⟨w, s.imm, i, _, hw, hi, by simp, by simp, hx⟩
  · left; simp
  · exact .inr ⟨w, v, i, _, hw, hi, by simp, by simp, hx⟩

/-- A processing cycle that sets the Halt flag has fetched the word of an HLT. -/
theorem fetch_sets_halt {s t : State} (h : fetch s execute = .next t) (hs : s.halt = false) (ht : t.halt = true) :
    ∃ w, (s.busRead s.pc).1 = some w ∧ decode [w] = .ok (.hlt, []) := by
  obtain ⟨hh, -⟩ | ⟨w, v, i, u, hw, hi, hu, -, hx⟩ := fetch_flags h
  · simp [hh, hs] at ht
  · by_cases e : i = .hlt
    · exact ⟨w, hw, decode_hlt (e ▸ hi)⟩
    · simp [exec_halt e hx, hu, hs] at ht

/-- A processing cycle that sets the Wait flag has fetched the word of a WAIT. -/
theorem fetch_sets_wait {s t : State} (h : fetch s execute = .next t) (hs : s.wait = false) (ht : t.wait = true) :
    ∃ w, (s.busRead s.pc).1 = some w ∧ decode [w] = .ok (.wait, []) := by
  obtain ⟨-, hh⟩ | ⟨w, v, i, u, hw, hi, -, hu, hx⟩ := fetch_flags h
  · simp [hh, hs] at ht
  · by_cases e : i = .wait
    · exact ⟨w, hw, decode_wait (e ▸ hi)⟩
    · simp [exec_wait e hx, hu, hs] at ht

/-! ### The registers after reset -/

/-- Reset leaves the registers as the reset response does (R36, R280). -/
theorem State.reg_reset (q : Reg) : State.reset.reg q = if q = BP ∨ q = SP then Config.stackTop else 0 :=
  State.reset.reg_resetSignal q

/-! ### The statements -/

/-- Settles O16: of the four things a step can do, only a running cycle can set Halt and only reset can clear it. -/
theorem haltFlagSources : Obligations.HaltFlagSources := by
  intro s t h
  obtain ⟨hq, rfl⟩ | ⟨hq, rfl⟩ | ⟨hq, -, rfl⟩ | ⟨hq, hrun, hx⟩ := step_cases h
  · simp [hq]
  · simp +contextual [hq]
  · refine ⟨?_, ?_, fun _ _ => rfl⟩
    all_goals simp +contextual
  · have hs := (State.stopped_eq_false.1 hrun).1
    refine ⟨fun _ ht => ⟨hq, fetch_sets_halt hx hs ht⟩, ?_, ?_⟩
    all_goals simp [hs]

/-- Settles O17: of the four things a step can do, only a running cycle can set Wait, and frame and reset leave it
clear. -/
theorem waitFlagSources : Obligations.WaitFlagSources := by
  intro s t h
  obtain ⟨hq, rfl⟩ | ⟨hq, rfl⟩ | ⟨hq, -, rfl⟩ | ⟨hq, hrun, hx⟩ := step_cases h
  · simp [hq]
  · simp [hq]
  · refine ⟨?_, ?_, ?_, ?_, fun _ _ => rfl⟩
    all_goals simp +contextual [hq]
  · have hs := (State.stopped_eq_false.1 hrun).2
    refine ⟨fun _ ht => ⟨hq, fetch_sets_wait hx hs ht⟩, ?_, ?_, ?_, ?_⟩
    all_goals simp [hs, hq]

/-- Settles O11: R0 to R13 are neither BP nor SP, and the other fields are the reset table's. -/
theorem resetState : Obligations.ResetState := by
  refine ⟨fun q hq => ?_, State.reg_reset 14, State.reg_reset 15, rfl, rfl, rfl, rfl, rfl, rfl⟩
  have hne : ¬ (q = BP ∨ q = SP) := by
    rintro (rfl | rfl) <;> simp [BP, SP] at hq
  rw [State.reg_reset, if_neg hne]

/-- Settles O14: the memory lists nothing, and neither flag is set. -/
theorem resetMeetsInvariants : Obligations.ResetMeetsInvariants :=
  ⟨Memory.wf_reset, fun hboth => Bool.false_ne_true hboth.1⟩

end Machine
end Sys2Proof

/-! Memory: what a step and an instruction can change, and which requests they record (spec/20_memory.md). -/

namespace Sys2Proof

/-! ### The length and the decoding of the fetched words -/

/-- Bit 25 of a word, in the numbering of the statements, is its "Use immediate value" field (R82). -/
theorem usesImmediate_eq_getLsbD (w : Word) : usesImmediate w = w.getLsbD 25 := by
  rw [BitVec.getLsbD, Nat.testBit_eq_decide_div_mod_eq]
  rfl

/-- A variant without an immediate word does not look at `Imm` (R83). -/
theorem decodeVariant_false_imm (op : Opcode) (r1 r2 : Reg) (mode port : Nat) (imm imm' : Word) :
    decodeVariant op false r1 r2 mode port imm = decodeVariant op false r1 r2 mode port imm' := by
  cases op
  case mov => simp only [decodeVariant]; unfold decodeMov; split <;> simp_all
  all_goals rfl

theorem decode_one_word {w imm : Word} {i : Instr} (hw : usesImmediate w = false) (h : decodeWord w imm = .ok i) :
    decode [w] = .ok (i, []) := by
  have h0 : decodeWord w 0 = .ok i := by
    rw [← h]
    simp only [decodeWord, hw]
    exact decodeVariant_false_imm ..
  rw [decode_of_not_usesImmediate hw, h0]
  rfl

theorem decode_two_words {w imm : Word} {i : Instr} (hw : usesImmediate w = true) (h : decodeWord w imm = .ok i) :
    decode [w, imm] = .ok (i, []) := by
  simp [decode, hw, h, Except.map]

/-- MOVS and CMPS, the instructions with two requests, are one word long (R91). -/
theorem decodeVariant_true_ne_twoRequests {op : Opcode} {r1 r2 : Reg} {mode port : Nat} {imm : Word} {i : Instr}
    (h : decodeVariant op true r1 r2 mode port imm = .ok i) : i ≠ .movs ∧ ∀ r, i ≠ .cmps r := by
  cases op
  case mov =>
    simp only [decodeVariant] at h
    unfold decodeMov at h
    split at h <;> cases h <;> simp
  all_goals cases h <;> simp

end Sys2Proof

namespace Sys2Proof.Machine

/-! ### What a series of requests leaves -/

/-- From `s` to `t` exactly the requests `es` were made, each recorded once and in order with its answer; each used up
at most one of the environment's answers, no signal was taken, and only a word that was written to can read
differently. -/
structure Exchanged (es : List Exchange) (s t : State) : Prop where
  history : t.history = (es.map fun e => Event.request e.1 e.2).reverse ++ s.history
  signals : t.signals = s.signals
  answers : ∃ k ≤ es.length, t.answers = s.answers.drop k
  memory : ∀ a, (∀ e ∈ es, ∀ v, e.1 ≠ .memWrite a v) → t.peek a = s.peek a

theorem Exchanged.of_noRequest {s t : State} (hm : SameMemory s t) : NoRequest s t → Exchanged [] s t
  | ⟨hsignals, hanswers, hhistory⟩ => ⟨hhistory, hsignals, ⟨0, Nat.le_refl 0, hanswers⟩, fun a _ => hm a⟩

theorem Exchanged.trans {es fs : List Exchange} {s t u : State} (h : Exchanged es s t) (h' : Exchanged fs t u) :
    Exchanged (es ++ fs) s u where
  history := by simp [h'.history, h.history]
  signals := h'.signals.trans h.signals
  answers := by
    obtain ⟨j, hj, ej⟩ := h.answers
    obtain ⟨k, hk, ek⟩ := h'.answers
    exact ⟨j + k, by simp; omega, by rw [ek, ej, List.drop_drop]⟩
  memory a ha :=
    (h'.memory a fun e he => ha e (List.mem_append_right es he)).trans
      (h.memory a fun e he => ha e (List.mem_append_left fs he))

theorem Exchanged.refl (s : State) : Exchanged [] s s := .of_noRequest (fun _ => rfl) ⟨rfl, rfl, rfl⟩

theorem Exchanged.setReg (s : State) (r : Reg) (v : Word) : Exchanged [] s (s.setReg r v) :=
  .of_noRequest (fun _ => rfl) ⟨rfl, rfl, rfl⟩

theorem Exchanged.setPc (s : State) (v : Word) : Exchanged [] s (s.setPc v) :=
  .of_noRequest (fun _ => rfl) ⟨rfl, rfl, rfl⟩

theorem Exchanged.raise (s : State) (e : HardwareError) : Exchanged [] s (s.raise e) :=
  .of_noRequest (fun _ => rfl) ⟨rfl, rfl, rfl⟩

theorem Exchanged.countDown (s : State) : Exchanged [] s s.countDown := by
  unfold State.countDown
  simp only
  split
  · exact (Exchanged.setReg ..).trans (.setPc ..)
  · exact .setReg ..

/-- The last updates of `MOVS` and `CMPS`: both pointers move and the count goes down. -/
theorem Exchanged.moveOn (s : State) : Exchanged [] s ((s.increment DR).increment SR).countDown :=
  ((Exchanged.setReg ..).trans (.setReg ..)).trans (.countDown _)

/-! ### What each request leaves -/

theorem Exchanged.busRead (s : State) (a : Word) : Exchanged [readExchange a s] s (s.busRead a).2 where
  history := s.busRead_history a
  signals := s.busRead_signals a
  answers := by
    obtain ⟨w, -, h⟩ | ⟨-, h⟩ := s.busRead_cases a
    · exact ⟨0, Nat.zero_le _, by simp [h]⟩
    · exact ⟨1, Nat.le_refl _, by simp [h]⟩
  memory c _ := s.busRead_peek a c

theorem Exchanged.ask (s : State) (q : Request) : Exchanged [portExchange q s] s (s.ask q).2 where
  history := rfl
  signals := rfl
  answers := ⟨1, Nat.le_refl _, by simp⟩
  memory _ _ := rfl

theorem inRam_iff (a : Word) : inRam a = true ↔ a.toNat ≤ 0x003FFFFF :=
  decide_eq_true_iff.trans Nat.lt_succ_iff

theorem writeExchange_ram {s : State} {a : Word} (v : Word) (h : inRam a = true) :
    writeExchange a v s = (.memWrite a v, some v) := by
  simp only [writeExchange, if_pos ((inRam_iff a).1 h)]

theorem writeExchange_outside {s : State} {a : Word} (v : Word) (h : inRam a = false) :
    writeExchange a v s = (.memWrite a v, s.answerTo (.memWrite a v)) := by
  have hn : ¬ a.toNat ≤ 0x003FFFFF := by simp [← inRam_iff, h]
  simp only [writeExchange, if_neg hn]

theorem Exchanged.busWrite (s : State) (a v : Word) : Exchanged [writeExchange a v s] s (s.busWrite a v).2 where
  history := by
    obtain ⟨hr, h⟩ | ⟨hr, -, h⟩ | ⟨hr, -, -, h⟩ | ⟨hr, -, -, h⟩ := s.busWrite_cases a v
    · simp [h, writeExchange_ram v hr]
    all_goals simp [h, writeExchange_outside v hr]
  signals := s.busWrite_signals a v
  answers := by
    obtain ⟨-, h⟩ | ⟨-, -, h⟩ | ⟨-, -, -, h⟩ | ⟨-, -, -, h⟩ := s.busWrite_cases a v
    · exact ⟨0, Nat.zero_le _, by simp [h]⟩
    all_goals exact ⟨1, Nat.le_refl _, by simp [h]⟩
  memory c hc := s.busWrite_peek_ne a v c fun e => hc _ (List.mem_singleton.2 rfl) v (by rw [e]; rfl)

/-! ### What each operation that can raise leaves -/

/-- After a read the rest makes its requests where the read was answered, and none where it failed. -/
theorem memRead_exchanged {es : List Exchange} {a : Word} {s : State} {rest : Word → State → Result}
    (hok : ∀ w, (s.busRead a).1 = some w → Result.AllNext (Exchanged es (s.busRead a).2) (rest w (s.busRead a).2))
    (hfail : (s.busRead a).1 = none → es = []) :
    Result.AllNext (Exchanged (readExchange a s :: es) s) (memRead a s rest) := by
  cases hw : (s.busRead a).1 with
  | some w =>
    rw [memRead_ok _ _ _ _ hw]
    exact fun t ht => (Exchanged.busRead s a).trans (hok w hw t ht)
  | none =>
    rw [memRead_failed _ _ _ hw, hfail hw]
    exact allNext_next ((Exchanged.busRead s a).trans (.raise ..))

/-- A read after which no request is made. -/
theorem memRead_exchanged_last {a : Word} {s : State} {rest : Word → State → Result}
    (hok : ∀ w, Result.AllNext (Exchanged [] (s.busRead a).2) (rest w (s.busRead a).2)) :
    Result.AllNext (Exchanged [readExchange a s] s) (memRead a s rest) :=
  memRead_exchanged (fun w _ => hok w) fun _ => rfl

/-- A write after which no request is made. -/
theorem memWrite_exchanged {a v : Word} {s : State} {rest : State → Result}
    (hok : Result.AllNext (Exchanged [] (s.busWrite a v).2) (rest (s.busWrite a v).2)) :
    Result.AllNext (Exchanged [writeExchange a v s] s) (memWrite a v s rest) := by
  cases hw : (s.busWrite a v).1 with
  | true =>
    rw [memWrite_ok _ _ _ _ hw]
    exact fun t ht => (Exchanged.busWrite s a v).trans (hok t ht)
  | false =>
    rw [memWrite_failed _ _ _ _ hw]
    exact allNext_next ((Exchanged.busWrite s a v).trans (.raise ..))

theorem portRead_exchanged {p : Nat} {s : State} {rest : Word → State → Result}
    (hok : ∀ w t, Result.AllNext (Exchanged [] t) (rest w t)) :
    Result.AllNext (Exchanged [portExchange (.portRead p) s] s) (portRead p s rest) := by
  cases hw : s.answerTo (.portRead p) with
  | some w =>
    rw [portRead_ok _ _ _ _ hw]
    exact fun t ht => (Exchanged.ask s _).trans (hok _ _ t ht)
  | none =>
    rw [portRead_failed _ _ _ hw]
    exact allNext_next ((Exchanged.ask s _).trans (.raise ..))

theorem portWrite_exchanged {p : Nat} {v : Word} {s : State} :
    Result.AllNext (Exchanged [portExchange (.portWrite p v) s] s) (portWrite p v s .next) := by
  cases hw : s.answerTo (.portWrite p v) with
  | some w =>
    rw [portWrite_ok _ _ _ _ _ hw]
    exact allNext_next (.ask s _)
  | none =>
    rw [portWrite_failed _ _ _ _ hw]
    exact allNext_next ((Exchanged.ask s _).trans (.raise ..))

theorem stackPush_exchanged {v : Word} {s : State} {rest : State → Result}
    (hok : ∀ t, Result.AllNext (Exchanged [] t) (rest t)) :
    Result.AllNext (Exchanged [writeExchange (s.reg SP) v s] s) (stackPush v s rest) := by
  refine memWrite_exchanged ?_
  simp only
  split
  · exact allNext_next ((Exchanged.setReg ..).trans (.raise ..))
  · exact fun t ht => (Exchanged.setReg ..).trans (hok _ t ht)

theorem popExchange_inside {s : State} (h : (s.reg SP + 1).toInt ≤ Config.stackTop.toInt) :
    popExchange s = [readExchange (s.reg SP + 1) (s.setReg SP (s.reg SP + 1))] :=
  (if_pos h).trans (by simp [readExchange])

theorem popExchange_underflow {s : State} (h : Config.stackTop.toInt < (s.reg SP + 1).toInt) :
    popExchange s = [] :=
  if_neg (Int.not_le.2 h)

theorem stackPop_exchanged {s : State} {rest : Word → State → Result}
    (hok : ∀ w t, Result.AllNext (Exchanged [] t) (rest w t)) :
    Result.AllNext (Exchanged (popExchange s) s) (stackPop s rest) := by
  obtain hin | hout := le_or_gt (s.reg SP + 1).toInt Config.stackTop.toInt
  · rw [stackPop_inside _ _ hin, popExchange_inside hin]
    exact fun t ht => (Exchanged.setReg ..).trans (memRead_exchanged_last (fun w => hok w _) t ht)
  · rw [stackPop_underflow _ _ hout, popExchange_underflow hout]
    exact allNext_next ((Exchanged.setReg ..).trans (.raise ..))

theorem jump_exchanged (target : Word) (s : State) : Result.AllNext (Exchanged [] s) (jump target s) :=
  allNext_next (.setPc ..)

theorem jumpIf_exchanged (c : Bool) (target : Word) (s : State) :
    Result.AllNext (Exchanged [] s) (jumpIf c target s) := by
  cases c
  · exact allNext_next (.refl s)
  · exact jump_exchanged target s

theorem updateUnless_exchanged (bad : Word → Word → Bool) (e : HardwareError) (f : Word → Word → Word) (r1 : Reg)
    (b : Word) (s : State) : Result.AllNext (Exchanged [] s) (updateUnless bad e f r1 b s) := by
  unfold updateUnless
  split
  · exact allNext_next (.raise ..)
  · exact allNext_next (.setReg ..)

theorem updateRegUnless_exchanged (bad : Word → Bool) (e : HardwareError) (f : Word → Word) (r1 : Reg)
    (s : State) : Result.AllNext (Exchanged [] s) (updateRegUnless bad e f r1 s) := by
  unfold updateRegUnless
  split
  · exact allNext_next (.raise ..)
  · exact allNext_next (.setReg ..)

/-! ### The requests of an instruction -/

theorem State.busRead_eq_pair {s : State} {a : Word} {x : Option Word} (h : (s.busRead a).1 = x) :
    s.busRead a = (x, (s.busRead a).2) :=
  Prod.ext h rfl

theorem requests_movs_answered {s : State} {v : Word} (h : (s.busRead (s.reg SR)).1 = some v) :
    requests .movs s =
      [readExchange (s.reg SR) s, writeExchange (s.reg DR) v (s.busRead (s.reg SR)).2] := by
  simp only [requests]
  rw [State.busRead_eq_pair h]

theorem requests_movs_failed {s : State} (h : (s.busRead (s.reg SR)).1 = none) :
    requests .movs s = [readExchange (s.reg SR) s] := by
  simp only [requests]
  rw [State.busRead_eq_pair h]

theorem requests_cmps_answered {s : State} {r : Reg} {v : Word} (h : (s.busRead (s.reg DR)).1 = some v) :
    requests (.cmps r) s =
      [readExchange (s.reg DR) s, readExchange (s.reg SR) (s.busRead (s.reg DR)).2] := by
  simp only [requests]
  rw [State.busRead_eq_pair h]

theorem requests_cmps_failed {s : State} {r : Reg} (h : (s.busRead (s.reg DR)).1 = none) :
    requests (.cmps r) s = [readExchange (s.reg DR) s] := by
  simp only [requests]
  rw [State.busRead_eq_pair h]

theorem movs_exchanged (s : State) : Result.AllNext (Exchanged (requests .movs s) s) (exec .movs s) := by
  cases h : (s.busRead (s.reg SR)).1 with
  | some v =>
    rw [requests_movs_answered h]
    refine memRead_exchanged (fun w hw => ?_) (fun hn => by simp [h] at hn)
    obtain rfl : v = w := by simpa [h] using hw
    rw [State.busRead_reg]
    exact memWrite_exchanged (allNext_next (.moveOn _))
  | none =>
    rw [requests_movs_failed h]
    exact memRead_exchanged (fun w hw => by simp [h] at hw) fun _ => rfl

theorem cmps_exchanged (r : Reg) (s : State) :
    Result.AllNext (Exchanged (requests (.cmps r) s) s) (exec (.cmps r) s) := by
  cases h : (s.busRead (s.reg DR)).1 with
  | some v =>
    rw [requests_cmps_answered h]
    refine memRead_exchanged (fun w hw => ?_) (fun hn => by simp [h] at hn)
    rw [State.busRead_reg]
    refine memRead_exchanged_last fun v' => ?_
    simp only
    split
    · exact allNext_next (.setReg ..)
    · exact allNext_next ((Exchanged.setReg ..).trans (.moveOn _))
  | none =>
    rw [requests_cmps_failed h]
    exact memRead_exchanged (fun w hw => by simp [h] at hw) fun _ => rfl

/-- THE REQUESTS OF AN INSTRUCTION: it makes exactly its computed requests, in order, and changes no word that none of
them writes. -/
theorem exec_exchanged (i : Instr) (s : State) : Result.AllNext (Exchanged (requests i s) s) (exec i s) := by
  cases i
  case hlt | wait => exact allNext_next (.of_noRequest (fun _ => rfl) ⟨rfl, rfl, rfl⟩)
  case jmpImm | jmpReg => exact jump_exchanged _ s
  case jtImm | jtReg | jfImm | jfReg => exact jumpIf_exchanged _ _ s
  case callImm imm => exact stackPush_exchanged fun t => jump_exchanged imm t
  case callReg r => exact stackPush_exchanged fun t => jump_exchanged (t.reg r) t
  case ret => exact stackPop_exchanged jump_exchanged
  case push => exact stackPush_exchanged fun t => allNext_next (.refl t)
  case pop => exact stackPop_exchanged fun w t => allNext_next (.setReg ..)
  case movRegMemImm | movRegMemReg | movRegMemRegImm =>
    exact memRead_exchanged_last fun w => allNext_next (.setReg ..)
  case movMemImmReg | movMemRegReg | movMemRegImmReg => exact memWrite_exchanged (allNext_next (.refl _))
  case inPort => exact portRead_exchanged fun w t => allNext_next (.setReg ..)
  case outImm | outReg => exact portWrite_exchanged
  case movs => exact movs_exchanged s
  case sets => exact memWrite_exchanged (allNext_next ((Exchanged.setReg ..).trans (.countDown _)))
  case cmps r => exact cmps_exchanged r s
  case idivImm | idivReg | imodImm | imodReg | fdivImm | fdivReg | fmodImm | fmodReg | atan2 | pow =>
    exact updateUnless_exchanged _ _ _ _ _ s
  case acos | log => exact updateRegUnless_exchanged _ _ _ _ s
  all_goals exact allNext_next (Exchanged.setReg s _ _)

/-- An instruction writes to its store address only (R55). -/
theorem storeAddress_of_mem_requests {i : Instr} {s : State} {e : Exchange} {a v : Word} (he : e ∈ requests i s)
    (ha : e.1 = .memWrite a v) : storeAddress i s = some a := by
  cases i
  case ret | pop =>
    simp only [requests, popExchange] at he
    split at he <;> simp_all [readExchange]
  case movs =>
    cases h : (s.busRead (s.reg SR)).1 with
    | some v =>
      rw [requests_movs_answered h, List.mem_pair] at he
      obtain rfl | rfl := he <;> simp_all [readExchange, writeExchange, storeAddress]
    | none => simp_all [requests_movs_failed h, readExchange]
  case cmps r =>
    cases h : (s.busRead (s.reg DR)).1 with
    | some v =>
      rw [requests_cmps_answered h, List.mem_pair] at he
      obtain rfl | rfl := he <;> simp_all [readExchange]
    | none => simp_all [requests_cmps_failed h, readExchange]
  all_goals simp_all [requests, storeAddress, readExchange, writeExchange, portExchange]

/-- Only MOVS and CMPS make two requests (spec/43_string_ops.md R171, R173). -/
theorem requests_length_le_one {i : Instr} (s : State) (hm : i ≠ .movs) (hc : ∀ r, i ≠ .cmps r) :
    (requests i s).length ≤ 1 := by
  cases i
  case movs => exact absurd rfl hm
  case cmps r => exact absurd rfl (hc r)
  case ret | pop => simp only [requests, popExchange]; split <;> simp
  all_goals simp [requests]

theorem requests_length_le_two (i : Instr) (s : State) : (requests i s).length ≤ 2 := by
  cases i
  case movs =>
    cases h : (s.busRead (s.reg SR)).1 with
    | some v => simp [requests_movs_answered h]
    | none => simp [requests_movs_failed h]
  case cmps =>
    cases h : (s.busRead (s.reg DR)).1 with
    | some v => simp [requests_cmps_answered h]
    | none => simp [requests_cmps_failed h]
  all_goals exact (requests_length_le_one s (by simp) (by simp)).trans (Nat.le_succ 1)

/-! ### The requests of a processing cycle and of a step -/

/-- The state in which the execute step of a one-word instruction, or the fetch of the immediate word, begins. -/
abbrev State.fetchedWord (s : State) (w : Word) : State := { (s.busRead s.pc).2 with ir := w, pc := s.pc + 1 }

/-- The state in which the execute step of a two-word instruction begins. -/
abbrev State.fetchedImmediate (s : State) (w v : Word) : State :=
  { ((s.fetchedWord w).busRead (s.pc + 1)).2 with imm := v, pc := s.pc + 1 + 1 }

theorem Exchanged.fetchedWord (s : State) (w : Word) : Exchanged [readExchange s.pc s] s (s.fetchedWord w) :=
  (Exchanged.busRead s s.pc).trans (.of_noRequest (fun _ => rfl) ⟨rfl, rfl, rfl⟩)

theorem Exchanged.fetchedImmediate (s : State) (w v : Word) :
    Exchanged [readExchange s.pc s, readExchange (s.pc + 1) (s.fetchedWord w)] s (s.fetchedImmediate w v) :=
  ((Exchanged.fetchedWord s w).trans (.busRead ..)).trans (.of_noRequest (fun _ => rfl) ⟨rfl, rfl, rfl⟩)

section

variable {s : State} {w v imm : Word} {i : Instr}

theorem wordRequests_one (hu : usesImmediate w = false) (hi : decodeWord w imm = .ok i) :
    wordRequests [w] s = requests i s := by
  simp only [wordRequests, decode_one_word hu hi]

theorem wordRequests_two (hu : usesImmediate w = true) (hi : decodeWord w imm = .ok i) :
    wordRequests [w, imm] s = requests i s := by
  simp only [wordRequests, decode_two_words hu hi]

theorem cycleRequests_first_failed (h : (s.busRead s.pc).1 = none) :
    cycleRequests s = [readExchange s.pc s] := by
  simp only [cycleRequests]
  rw [State.busRead_eq_pair h]

theorem cycleRequests_one (h : (s.busRead s.pc).1 = some w) (hu : usesImmediate w = false)
    (hi : decodeWord w imm = .ok i) :
    cycleRequests s = readExchange s.pc s :: requests i (s.fetchedWord w) := by
  have hb : ¬ w.getLsbD 25 = true := by rw [← usesImmediate_eq_getLsbD, hu]; exact Bool.false_ne_true
  rw [← wordRequests_one hu hi]
  simp only [cycleRequests]
  rw [State.busRead_eq_pair h]
  exact congrArg _ (if_neg hb)

theorem cycleRequests_second_failed (h : (s.busRead s.pc).1 = some w) (hu : usesImmediate w = true)
    (h2 : ((s.fetchedWord w).busRead (s.pc + 1)).1 = none) :
    cycleRequests s = [readExchange s.pc s, readExchange (s.pc + 1) (s.fetchedWord w)] := by
  have hb : w.getLsbD 25 = true := by rw [← usesImmediate_eq_getLsbD, hu]
  simp only [cycleRequests]
  rw [State.busRead_eq_pair h]
  refine congrArg _ ((if_pos hb).trans (congrArg _ ?_))
  rw [State.busRead_eq_pair h2]

theorem cycleRequests_two (h : (s.busRead s.pc).1 = some w) (hu : usesImmediate w = true)
    (h2 : ((s.fetchedWord w).busRead (s.pc + 1)).1 = some v) (hi : decodeWord w v = .ok i) :
    cycleRequests s = readExchange s.pc s :: readExchange (s.pc + 1) (s.fetchedWord w) ::
      requests i (s.fetchedImmediate w v) := by
  have hb : w.getLsbD 25 = true := by rw [← usesImmediate_eq_getLsbD, hu]
  have hpc : s.pc + 1 + 1 = s.pc + 2 := BitVec.add_assoc ..
  rw [← wordRequests_two hu hi, State.fetchedImmediate, hpc]
  simp only [cycleRequests]
  rw [State.busRead_eq_pair h]
  refine congrArg _ ((if_pos hb).trans (congrArg _ ?_))
  rw [State.busRead_eq_pair h2]

end

/-- THE REQUESTS OF A PROCESSING CYCLE: the fetches, then the instruction's own, three at most, since the instructions
that make two are one word long. -/
theorem fetch_exchanged {s t : State} (h : fetch s execute = .next t) :
    Exchanged (cycleRequests s) s t ∧ (cycleRequests s).length ≤ 3 := by
  obtain ⟨hw, rfl⟩ | ⟨w, hw, ⟨hu, i, hi, hx⟩ | ⟨hu, ⟨hv, rfl⟩ | ⟨v, i, hv, hi, hx⟩⟩⟩ := fetch_cases h
  · rw [cycleRequests_first_failed hw]
    exact ⟨(Exchanged.busRead ..).trans (.raise ..), by simp⟩
  · rw [cycleRequests_one hw hu hi]
    exact ⟨(Exchanged.fetchedWord s w).trans (exec_exchanged i _ t hx),
      Nat.succ_le_succ (requests_length_le_two i _)⟩
  · rw [cycleRequests_second_failed hw hu hv]
    exact ⟨((Exchanged.fetchedWord s w).trans (.busRead ..)).trans (.raise ..), by simp⟩
  · rw [cycleRequests_two hw hu hv hi]
    obtain ⟨hmovs, hcmps⟩ : i ≠ .movs ∧ ∀ r, i ≠ .cmps r := by
      rw [decodeWord, hu] at hi
      exact decodeVariant_true_ne_twoRequests hi
    exact ⟨(Exchanged.fetchedImmediate s w v).trans (exec_exchanged i _ t hx),
      Nat.succ_le_succ (Nat.succ_le_succ (requests_length_le_one _ hmovs hcmps))⟩

theorem stepRequests_running {s : State} (h : s.nextSignal = .cycle) (hs : s.stopped = false) :
    stepRequests s = cycleRequests (s.taking .cycle) :=
  if_pos ⟨h, State.stopped_eq_false.1 hs⟩

theorem stepRequests_idle {s : State} (h : s.nextSignal = .cycle → s.stopped = true) : stepRequests s = [] :=
  if_neg fun ⟨hq, hflags⟩ => Bool.false_ne_true ((State.stopped_eq_false.2 hflags).symm.trans (h hq))

/-- A step takes the next signal, and then makes exactly its computed requests, three at most. -/
theorem step_exchanged {s t : State} (h : step s = .next t) :
    Exchanged (stepRequests s) (s.taking s.nextSignal) t ∧ (stepRequests s).length ≤ 3 := by
  obtain ⟨hq, rfl⟩ | ⟨hq, rfl⟩ | ⟨hq, hstop, rfl⟩ | ⟨hq, hrun, hx⟩ := step_cases h
  · rw [stepRequests_idle (by simp [hq]), hq]
    exact ⟨.of_noRequest (fun _ => rfl) ⟨rfl, rfl, rfl⟩, by simp⟩
  · rw [stepRequests_idle (by simp [hq]), hq]
    exact ⟨.of_noRequest (fun _ => rfl) ⟨rfl, rfl, rfl⟩, by simp⟩
  · rw [stepRequests_idle fun _ => hstop, hq]
    exact ⟨.refl _, by simp⟩
  · rw [stepRequests_running hq hrun, hq]
    exact fetch_exchanged hx

/-! ### RAM, and the canonical form of memory -/

theorem State.busRead_ram {s : State} {a : Word} (h : inRam a = true) : (s.busRead a).1 = s.peek a := by
  obtain ⟨w, hw⟩ := s.peek_ram a h
  rw [State.busRead_known s a w hw, hw]

theorem keeps_memWf (i : Instr) : Keeps i (·.mem.wf = true) where
  setReg _ _ _ h := h
  setPc _ _ h := h
  busRead s a h := by rw [s.busRead_mem a]; exact h
  busWrite s a v h := s.busWrite_wf a v h
  ask _ _ h := h
  setHalt _ _ h := h
  setWait _ _ h := h

/-! ### The statements -/

/-- Settles O13: every write keeps the canonical form, and nothing else in a step touches memory. -/
theorem stepKeepsMemoryCanonical : Obligations.StepKeepsMemoryCanonical := fun _ _ =>
  step_keeps keeps_memWf (hsignal := fun _ _ _ h => h) (hir := fun _ _ _ h => h) (himm := fun _ _ _ h => h)
    (hreset := fun _ h => h) (hframe := fun _ h => h)

/-- Settles O12: in RAM a read answers the word that is known, and a write makes it the new word. -/
theorem ramReadsWhatWasWritten : Obligations.RamReadsWhatWasWritten := by
  intro s a b v ha hb
  have hra := (inRam_iff a).2 ha
  have hrb := (inRam_iff b).2 hb
  refine ⟨?_, by rw [State.busWrite_ram s a v hra], ?_⟩
  · rw [State.busRead_ram hra]
    exact s.peek_ram a hra
  · rw [State.busRead_ram hrb, State.busRead_ram hrb, State.busWrite_ram s a v hra, State.record_peek,
      State.peek_poke]

/-- Settles O18: the signal is taken first, and the requests after it are the computed ones. -/
theorem stepRecordsEveryRequestOnce : Obligations.StepRecordsEveryRequestOnce := by
  intro s t h
  obtain ⟨hx, hlen⟩ := step_exchanged h
  exact ⟨hx.history, hx.signals, hlen, hx.answers⟩

/-- Settles O20: an instruction changes only what its requests write, and these write only to its store address. -/
theorem execStoresOnlyAtStoreAddress : Obligations.ExecStoresOnlyAtStoreAddress := by
  intro i s t h a ha
  exact (exec_exchanged i s t h).memory a fun e he v hw => ha (storeAddress_of_mem_requests he hw)

end Sys2Proof.Machine

/-! The encoding: what the fields of a word say, and which words and fields count (spec/30_encoding.md). -/

namespace Sys2Proof

open Machine (opBits modeBits usedMask IllFormedWord)

/-! ### The fields of a word -/

theorem Field.get_eq_extractLsb' (f : Field) (w : Word) : f.get w = (w.extractLsb' f.lo f.width).toNat := by
  rw [Field.get, BitVec.extractLsb'_toNat, Nat.shiftRight_eq_div_pow]

theorem Field.get_lt (f : Field) (w : Word) : f.get w < 2 ^ f.width := Nat.mod_lt _ (Nat.two_pow_pos _)

theorem opBits_eq_get (w : Word) : opBits w = fieldLayout.opcode.get w :=
  (Field.get_eq_extractLsb' fieldLayout.opcode w).symm

theorem modeBits_eq_addressingMode (w : Word) : modeBits w = addressingMode w :=
  (Field.get_eq_extractLsb' fieldLayout.mode w).symm

theorem opcodeNumber_getD : ∀ n < 64, opcodeNumber (opcodeList.getD n .hlt) = n := by decide

/-- The opcode field holds the number of the word's opcode (R90). -/
theorem get_opcode (w : Word) : fieldLayout.opcode.get w = opcodeNumber (opcodeOf w) :=
  (opcodeNumber_getD _ (Field.get_lt _ w)).symm

/-- The six fields cover the word (R82). -/
theorem eq_of_fields {w v : Word} (hop : opcodeOf w = opcodeOf v)
    (hu : fieldLayout.useimm.get w = fieldLayout.useimm.get v) (h1 : fieldLayout.r1.get w = fieldLayout.r1.get v)
    (h2 : fieldLayout.r2.get w = fieldLayout.r2.get v) (hm : addressingMode w = addressingMode v)
    (hp : portNumber w = portNumber v) : w = v := by
  have ho : fieldLayout.opcode.get w = fieldLayout.opcode.get v := by rw [get_opcode, get_opcode, hop]
  apply BitVec.eq_of_toNat_eq
  simp only [addressingMode, portNumber, fieldLayout, Field.get] at *
  omega

/-! ### Ill-formed words (R94) -/

theorem oneVariant_error_iff {op : Opcode} {useimm : Bool} {i : Instr} :
    (∃ e, oneVariant op useimm i = .error e) ↔ useimm = true := by
  cases useimm <;> simp [oneVariant]

theorem twoVariants_ne_error {useimm : Bool} {withImm withReg : Instr} {e : Reject} :
    twoVariants useimm withImm withReg ≠ .error e := nofun

/-- `MOV` rejects exactly the modes whose variant has the other "Use immediate value" bit (R92). -/
theorem decodeMov_error_iff {mode : Nat} {useimm : Bool} {r1 r2 : Reg} {imm : Word} (hm : mode < 8) :
    (∃ e, decodeMov mode useimm r1 r2 imm = .error e) ↔
      useimm = false ∧ mode ∈ [0, 2, 4, 5, 7] ∨ useimm = true ∧ mode ∈ [1, 3, 6] := by
  interval_cases mode <;> cases useimm <;> simp [decodeMov]

/-- Settles O3: of the three shapes of an opcode's variants, a single variant rejects bit 25, two variants reject
nothing, and `MOV` rejects by its mode. -/
theorem illFormedWordsExactly : Obligations.IllFormedWordsExactly := by
  intro w imm
  have hm : addressingMode w < 8 := Field.get_lt _ w
  rw [IllFormedWord, opBits_eq_get, get_opcode, modeBits_eq_addressingMode, ← usesImmediate_eq_getLsbD, decodeWord]
  cases opcodeOf w
  case mov => simp [decodeVariant, opcodeNumber, decodeMov_error_iff hm]
  all_goals simp [decodeVariant, opcodeNumber, oneVariant_error_iff, twoVariants_ne_error]

/-! ### Used fields (R83, R93) -/

/-- All bits of the field are set in the mask. -/
def Field.coveredBy (f : Field) (m : Word) : Bool := m.extractLsb' f.lo f.width == BitVec.allOnes f.width

theorem Field.get_and_of_coveredBy {f : Field} {m : Word} (h : f.coveredBy m = true) (w : Word) :
    f.get (w &&& m) = f.get w := by
  rw [Field.get_eq_extractLsb', Field.get_eq_extractLsb', BitVec.extractLsb'_and, eq_of_beq h, BitVec.and_allOnes]

/-- A mask keeps a field that it covers, and one that is zero where it does not. -/
theorem Field.get_and_eq {f : Field} {w m : Word} (h : f.coveredBy m = false → f.get w = 0) :
    f.get (w &&& m) = f.get w := by
  cases hc : f.coveredBy m with
  | true => exact Field.get_and_of_coveredBy hc w
  | false =>
    have h0 := h hc
    rw [Field.get_eq_extractLsb'] at h0 ⊢
    rw [Field.get_eq_extractLsb', BitVec.extractLsb'_and, BitVec.toNat_and, h0, Nat.zero_and]

theorem Field.get_eq_of_and_eq {f : Field} {w v m : Word} (hwv : w &&& m = v &&& m) (h : f.coveredBy m = true) :
    f.get w = f.get v := by
  rw [← Field.get_and_of_coveredBy h w, hwv, Field.get_and_of_coveredBy h]

theorem opcodeNumber_eq_mov_iff {op : Opcode} : opcodeNumber op = 19 ↔ op = .mov := by cases op <;> decide

theorem usedMask_congr {w v : Word} (hop : opcodeOf w = opcodeOf v) (hu : usesImmediate w = usesImmediate v)
    (hm : opcodeOf v = .mov → addressingMode w = addressingMode v) : usedMask w = usedMask v := by
  have hn : opBits w = opBits v := by rw [opBits_eq_get, opBits_eq_get, get_opcode, get_opcode, hop]
  have hb : w.getLsbD 25 = v.getLsbD 25 := by rw [← usesImmediate_eq_getLsbD, hu, usesImmediate_eq_getLsbD]
  unfold usedMask
  by_cases h : opcodeOf v = .mov
  · rw [hn, hb, modeBits_eq_addressingMode, modeBits_eq_addressingMode, hm h]
  · have h19 : opBits v ≠ 19 := by rwa [opBits_eq_get, get_opcode, ne_eq, opcodeNumber_eq_mov_iff]
    simp only [hn, hb, h19, if_false]

/-- The mask of a variant: a word's mask depends on its opcode, bit 25 and mode alone. -/
def variantMask (op : Opcode) (useimm mode : Nat) : Word := usedMask (packWord op useimm 0 0 mode 0)

section

variable (op : Opcode) {useimm r1 r2 mode port : Nat} (hu : useimm < 2) (h1 : r1 < 16) (h2 : r2 < 16)
  (hm : mode < 8) (hp : port < 16384)
include hu h1 h2 hm hp

theorem opcodeOf_packWord : opcodeOf (packWord op useimm r1 r2 mode port) = op :=
  opcodeOf_number op _ (opcode_packWord op hu h1 h2 hm hp)

/-- The three fields whose accessors do not answer the number itself. -/
theorem get_packWord :
    fieldLayout.useimm.get (packWord op useimm r1 r2 mode port) = useimm ∧
    fieldLayout.r1.get (packWord op useimm r1 r2 mode port) = r1 ∧
    fieldLayout.r2.get (packWord op useimm r1 r2 mode port) = r2 := by
  simp only [Field.get, packWord_toNat op useimm r1 r2 mode port hu h1 h2 hm hp, fieldLayout]
  have := opcodeNumber_lt op
  omega

end

theorem usedMask_eq_variantMask (w : Word) :
    usedMask w = variantMask (opcodeOf w) (fieldLayout.useimm.get w) (addressingMode w) := by
  have hu : fieldLayout.useimm.get w < 2 := Field.get_lt _ w
  have hm : addressingMode w < 8 := Field.get_lt _ w
  apply usedMask_congr
  · simp [opcodeOf_packWord, hu, hm]
  · rw [usesImmediate_packWord _ hu (by decide) (by decide) hm (by decide), usesImmediate]
  · simp [addressingMode_packWord, hu, hm]

/-- Only the mask of `MOV` depends on the mode (R93). -/
theorem variantMask_of_ne_mov {op : Opcode} (h : op ≠ .mov) {useimm mode : Nat} (hu : useimm < 2) (hm : mode < 8) :
    variantMask op useimm mode = variantMask op useimm 0 := by
  apply usedMask_congr
  all_goals simp [opcodeOf_packWord, usesImmediate_packWord, hu, hm, h]

/-- The opcode and bit 25 always count, and for `MOV` the mode does (R93). -/
theorem variantMask_covers {op : Opcode} {useimm mode : Nat} (hu : useimm < 2) (hm : mode < 8) :
    fieldLayout.opcode.coveredBy (variantMask op useimm mode) = true ∧
    fieldLayout.useimm.coveredBy (variantMask op useimm mode) = true ∧
    (op = .mov → fieldLayout.mode.coveredBy (variantMask op useimm mode) = true) := by
  by_cases h : op = .mov
  · subst h
    interval_cases mode <;> interval_cases useimm <;> decide
  · rw [variantMask_of_ne_mov h hu hm]
    refine ⟨?_, ?_, fun e => absurd e h⟩
    all_goals cases op <;> interval_cases useimm <;> decide

theorem usedMask_covers (w : Word) :
    fieldLayout.opcode.coveredBy (usedMask w) = true ∧ fieldLayout.useimm.coveredBy (usedMask w) = true := by
  obtain ⟨hop, hu, -⟩ := variantMask_covers (op := opcodeOf w) (Field.get_lt fieldLayout.useimm w)
    (Field.get_lt fieldLayout.mode w)
  rw [usedMask_eq_variantMask]
  exact ⟨hop, hu⟩

/-- A decoder's answer depends on the fields the variant's mask covers (R83). -/
theorem decodeVariant_congr {op : Opcode} {useimm mode mode' port port' : Nat} {r1 r1' r2 r2' : Reg} {imm : Word}
    (hu : useimm < 2) (hm : mode < 8)
    (h1 : fieldLayout.r1.coveredBy (variantMask op useimm mode) = true → r1 = r1')
    (h2 : fieldLayout.r2.coveredBy (variantMask op useimm mode) = true → r2 = r2')
    (hmode : fieldLayout.mode.coveredBy (variantMask op useimm mode) = true → mode = mode')
    (hport : fieldLayout.port.coveredBy (variantMask op useimm mode) = true → port = port') :
    decodeVariant op (useimm == 1) r1 r2 mode port imm = decodeVariant op (useimm == 1) r1' r2' mode' port' imm := by
  by_cases h : op = .mov
  · subst h
    obtain ⟨-, -, hmov⟩ := variantMask_covers (op := .mov) hu hm
    obtain rfl : mode = mode' := hmode (hmov rfl)
    interval_cases mode <;> interval_cases useimm
    -- which fields a closed mask covers is evaluated; the covered ones agree
    all_goals simp +decide at h1 h2
    all_goals simp [decodeVariant, decodeMov, h1, h2]
  · rw [variantMask_of_ne_mov h hu hm] at h1 h2 hport
    cases op
    case mov => exact absurd rfl h
    all_goals
      interval_cases useimm
      all_goals simp +decide at h1 h2 hport
      all_goals simp [decodeVariant, oneVariant, twoVariants, *]

/-! ### Packed instructions (R82, R83) -/

/-- The six fields and the immediate words of an instruction's encoding: they decode to the instruction, and a field
that the variant does not use is zero (R82, R83, R92, R93). -/
structure Packing (i : Instr) where
  op : Opcode
  useimm : Nat
  r1 : Nat
  r2 : Nat
  mode : Nat
  port : Nat
  imms : List Word
  encode_eq : encode i = packWord op useimm r1 r2 mode port :: imms
  length_eq : imms.length = useimm
  useimm_lt : useimm < 2
  r1_lt : r1 < 16
  r2_lt : r2 < 16
  mode_lt : mode < 8
  port_lt : port < 16384
  decoded : decodeVariant op (useimm == 1) (Fin.ofNat 16 r1) (Fin.ofNat 16 r2) mode port (imms.headD 0) = .ok i
  r1_zero : fieldLayout.r1.coveredBy (variantMask op useimm mode) = false → r1 = 0
  r2_zero : fieldLayout.r2.coveredBy (variantMask op useimm mode) = false → r2 = 0
  mode_zero : fieldLayout.mode.coveredBy (variantMask op useimm mode) = false → mode = 0
  port_zero : fieldLayout.port.coveredBy (variantMask op useimm mode) = false → port = 0

/-- The encoder's table packs every well-formed instruction: only a port number could fail to fit its field. -/
theorem nonempty_packing {i : Instr} (h : i.wellFormed = true) : Nonempty (Packing i) := by
  cases i
  case inPort | outImm | outReg =>
    have hp := of_decide_eq_true h
    refine ⟨_, _, _, _, _, _, _, rfl, rfl, ?_, ?_, ?_, ?_, hp, ?_, ?_, ?_, ?_, ?_⟩
    all_goals simp +decide [decodeVariant, oneVariant, twoVariants]
  all_goals
    refine ⟨_, _, _, _, _, _, _, rfl, rfl, ?_, ?_, ?_, ?_, ?_, ?_, ?_, ?_, ?_, ?_⟩
    all_goals simp +decide [decodeVariant, decodeMov, oneVariant, twoVariants]

theorem decode_of_usesImmediate {w imm : Word} {rest : List Word} (h : usesImmediate w = true) :
    decode (w :: imm :: rest) = (decodeWord w imm).map (·, rest) := by
  simp [decode, h]

namespace Packing

variable {i : Instr} (p : Packing i)

/-- The first word of the encoding. -/
def word : Word := packWord p.op p.useimm p.r1 p.r2 p.mode p.port

theorem opcodeOf_word : opcodeOf p.word = p.op :=
  opcodeOf_packWord _ p.useimm_lt p.r1_lt p.r2_lt p.mode_lt p.port_lt

theorem usesImmediate_word : usesImmediate p.word = (p.useimm == 1) :=
  usesImmediate_packWord _ p.useimm_lt p.r1_lt p.r2_lt p.mode_lt p.port_lt

theorem addressingMode_word : addressingMode p.word = p.mode :=
  addressingMode_packWord _ p.useimm_lt p.r1_lt p.r2_lt p.mode_lt p.port_lt

theorem portNumber_word : portNumber p.word = p.port :=
  portNumber_packWord _ p.useimm_lt p.r1_lt p.r2_lt p.mode_lt p.port_lt

theorem get_word : fieldLayout.useimm.get p.word = p.useimm ∧ fieldLayout.r1.get p.word = p.r1 ∧
    fieldLayout.r2.get p.word = p.r2 :=
  get_packWord _ p.useimm_lt p.r1_lt p.r2_lt p.mode_lt p.port_lt

theorem decodeWord_word : decodeWord p.word (p.imms.headD 0) = .ok i := by
  obtain ⟨-, h1, h2⟩ := p.get_word
  rw [decodeWord, opcodeOf_word, usesImmediate_word, register1, h1, register2, h2, addressingMode_word,
    portNumber_word, p.decoded]

include p in
/-- The immediate word follows exactly where bit 25 asks for it (R84). -/
theorem decode_encode (rest : List Word) : decode (encode i ++ rest) = .ok (i, rest) := by
  have hw := p.decodeWord_word
  have hu := p.usesImmediate_word
  rw [← p.length_eq] at hu
  rw [p.encode_eq, ← word]
  match h : p.imms with
  | [] =>
    rw [h] at hw hu
    exact (decode_of_not_usesImmediate hu).trans (congrArg (Except.map (·, rest)) hw)
  | [imm] =>
    rw [h] at hw hu
    exact (decode_of_usesImmediate hu).trans (congrArg (Except.map (·, rest)) hw)
  | _ :: _ :: _ =>
    have hlt := p.useimm_lt
    rw [← p.length_eq, h] at hlt
    simp at hlt

theorem usedMask_word : usedMask p.word = variantMask p.op p.useimm p.mode := by
  rw [usedMask_eq_variantMask, opcodeOf_word, p.get_word.1, addressingMode_word]

/-- The encoder leaves every field zero that the variant does not use (R83). -/
theorem word_and_usedMask : p.word &&& usedMask p.word = p.word := by
  obtain ⟨hop, hu⟩ := usedMask_covers p.word
  obtain ⟨-, h1, h2⟩ := p.get_word
  have hm := p.usedMask_word
  refine eq_of_fields (by rw [opcodeOf, Field.get_and_of_coveredBy hop, ← opcodeOf])
    (Field.get_and_of_coveredBy hu _) (Field.get_and_eq fun h => ?_) (Field.get_and_eq fun h => ?_)
    (Field.get_and_eq fun h => ?_) (Field.get_and_eq fun h => ?_)
  · rw [h1, p.r1_zero (hm ▸ h)]
  · rw [h2, p.r2_zero (hm ▸ h)]
  · exact p.addressingMode_word.trans (p.mode_zero (hm ▸ h))
  · exact p.portNumber_word.trans (p.port_zero (hm ▸ h))

end Packing

/-- Settles O1: every well-formed instruction is packed, and a packed word's fields decode to it. -/
theorem decodeEncodeRoundTrip : Obligations.DecodeEncodeRoundTrip := by
  intro i rest h
  obtain ⟨p⟩ := nonempty_packing h
  exact p.decode_encode rest

/-- Settles O4: the written words are the encoder's. -/
theorem specWordsDecode : Obligations.SpecWordsDecode :=
  ⟨decodeEncodeRoundTrip .hlt [] rfl, decodeEncodeRoundTrip (.callImm 0x300) [] rfl,
    decodeEncodeRoundTrip (.ineImm 1 7) [] rfl, decodeEncodeRoundTrip (.movMemRegImmReg 1 2 2) [] rfl,
    decodeEncodeRoundTrip (.outImm 5 1) [] rfl, decodeEncodeRoundTrip (.cmps 1) [] rfl,
    decodeEncodeRoundTrip (.cif 1) [] rfl, decodeEncodeRoundTrip (.shlReg 1 2) [] rfl,
    decodeEncodeRoundTrip (.idivReg 1 2) [] rfl, decodeEncodeRoundTrip (.faddReg 1 2) [] rfl,
    decodeEncodeRoundTrip (.atan2 1 2) [] rfl⟩

/-- Words that agree on the bits the first one uses decode alike (R83). -/
theorem decodeWord_eq_of_and_usedMask_eq {w v : Word} (h : w &&& usedMask w = v &&& usedMask w) (imm : Word) :
    decodeWord w imm = decodeWord v imm := by
  obtain ⟨hop, hu⟩ := usedMask_covers w
  have ho : opcodeOf v = opcodeOf w := by rw [opcodeOf, ← Field.get_eq_of_and_eq h hop, ← opcodeOf]
  have hi : usesImmediate v = usesImmediate w := by
    rw [usesImmediate, ← Field.get_eq_of_and_eq h hu, ← usesImmediate]
  rw [decodeWord, decodeWord, ho, hi]
  rw [usedMask_eq_variantMask w] at h
  refine decodeVariant_congr (Field.get_lt _ w) (Field.get_lt _ w) (fun hc => ?_) (fun hc => ?_) (fun hc => ?_)
    fun hc => ?_
  · rw [register1, Field.get_eq_of_and_eq h hc, ← register1]
  · rw [register2, Field.get_eq_of_and_eq h hc, ← register2]
  · exact Field.get_eq_of_and_eq h hc
  · exact Field.get_eq_of_and_eq h hc

/-- Settles O2: the decoder looks at covered fields only, and the encoder fills no other. -/
theorem unusedFieldsIgnored : Obligations.UnusedFieldsIgnored := by
  refine ⟨fun w v imm h => decodeWord_eq_of_and_usedMask_eq h imm, fun i h => ?_⟩
  obtain ⟨p⟩ := nonempty_packing h
  exact ⟨p.word, p.imms, p.encode_eq, p.word_and_usedMask⟩

end Sys2Proof

/-! The processing cycle: what a step makes of the words it fetches (spec/30_encoding.md R85 to R95). -/

namespace Sys2Proof

theorem eq_ok_of_map_eq_ok {r : Except Reject Instr} {i : Instr} {rest : List Word}
    (h : r.map (·, rest) = .ok (i, rest)) : r = .ok i := by
  cases r with
  | ok j => cases h; rfl
  | error e => cases h

/-- A one-word instruction decodes whatever `Imm` holds (R83). -/
theorem decodeWord_of_decode_one {w : Word} {i : Instr} (hu : usesImmediate w = false)
    (h : decode [w] = .ok (i, [])) (imm : Word) : decodeWord w imm = .ok i := by
  have h0 : decodeWord w imm = decodeWord w 0 := by
    simp only [decodeWord, hu]
    exact decodeVariant_false_imm ..
  exact h0.trans (eq_ok_of_map_eq_ok ((decode_of_not_usesImmediate hu).symm.trans h))

theorem decodeWord_of_decode_two {w imm : Word} {i : Instr} (hu : usesImmediate w = true)
    (h : decode [w, imm] = .ok (i, [])) : decodeWord w imm = .ok i :=
  eq_ok_of_map_eq_ok ((decode_of_usesImmediate hu).symm.trans h)

namespace Machine

/-! ### The execute step -/

theorem execute_of_ok {s : State} {i : Instr} (h : decodeWord s.ir s.imm = .ok i) : execute s = exec i s := by
  rw [execute, State.fetched, h]

theorem execute_of_illFormed {s : State} (h : IllFormedWord s.ir) :
    execute s = .refused (.illFormed s.pc s.ir s.imm) := by
  obtain ⟨e, he⟩ := (illFormedWordsExactly s.ir s.imm).2 h
  rw [execute, State.fetched, he]

/-! ### Every instruction answers a next state -/

/-- The result is a next state: no fault and no refusal. -/
def Result.IsNext (r : Result) : Prop := ∃ t, r = .next t

theorem isNext_next (t : State) : Result.IsNext (.next t) := ⟨t, rfl⟩

theorem isNext_ite {c : Prop} [Decidable c] {r r' : Result} (h : r.IsNext) (h' : r'.IsNext) :
    Result.IsNext (if c then r else r') := by
  split
  · exact h
  · exact h'

theorem memRead_isNext {a : Word} {s : State} {rest : Word → State → Result} (h : ∀ w t, (rest w t).IsNext) :
    (memRead a s rest).IsNext := by
  cases e : (s.busRead a).1 with
  | some w => rw [memRead_ok _ _ _ _ e]; exact h _ _
  | none => rw [memRead_failed _ _ _ e]; exact isNext_next _

theorem memWrite_isNext {a v : Word} {s : State} {rest : State → Result} (h : ∀ t, (rest t).IsNext) :
    (memWrite a v s rest).IsNext := by
  cases e : (s.busWrite a v).1 with
  | true => rw [memWrite_ok _ _ _ _ e]; exact h _
  | false => rw [memWrite_failed _ _ _ _ e]; exact isNext_next _

theorem portRead_isNext {p : Nat} {s : State} {rest : Word → State → Result} (h : ∀ w t, (rest w t).IsNext) :
    (portRead p s rest).IsNext := by
  cases e : s.answerTo (.portRead p) with
  | some w => rw [portRead_ok _ _ _ _ e]; exact h _ _
  | none => rw [portRead_failed _ _ _ e]; exact isNext_next _

theorem portWrite_isNext {p : Nat} {v : Word} {s : State} {rest : State → Result} (h : ∀ t, (rest t).IsNext) :
    (portWrite p v s rest).IsNext := by
  cases e : s.answerTo (.portWrite p v) with
  | some w => rw [portWrite_ok _ _ _ _ _ e]; exact h _
  | none => rw [portWrite_failed _ _ _ _ e]; exact isNext_next _

theorem stackPush_isNext {v : Word} {s : State} {rest : State → Result} (h : ∀ t, (rest t).IsNext) :
    (stackPush v s rest).IsNext :=
  memWrite_isNext fun _ => isNext_ite (isNext_next _) (h _)

theorem stackPop_isNext {s : State} {rest : Word → State → Result} (h : ∀ w t, (rest w t).IsNext) :
    (stackPop s rest).IsNext :=
  isNext_ite (isNext_next _) (memRead_isNext h)

/-- Every instruction answers a next state: each of its operations goes on or takes a hardware error (R250). -/
theorem exec_isNext (i : Instr) (s : State) : Result.IsNext (exec i s) := by
  cases i
  case callImm | push => exact stackPush_isNext fun _ => isNext_next _
  case callReg r1 => exact stackPush_isNext fun t => isNext_next (t.setPc (t.reg r1))
  case ret | pop => exact stackPop_isNext fun _ _ => isNext_next _
  case movRegMemImm | movRegMemReg | movRegMemRegImm => exact memRead_isNext fun _ _ => isNext_next _
  case movMemImmReg | movMemRegReg | movMemRegImmReg | sets => exact memWrite_isNext fun _ => isNext_next _
  case inPort => exact portRead_isNext fun _ _ => isNext_next _
  case outImm | outReg => exact portWrite_isNext fun _ => isNext_next _
  case movs => exact memRead_isNext fun _ _ => memWrite_isNext fun _ => isNext_next _
  case cmps =>
    exact memRead_isNext fun _ _ => memRead_isNext fun _ _ => isNext_ite (isNext_next _) (isNext_next _)
  case jtImm | jtReg | jfImm | jfReg => exact isNext_ite (isNext_next _) (isNext_next _)
  case idivImm | idivReg | imodImm | imodReg | fdivImm | fdivReg | fmodImm | fmodReg | acos | atan2 | log | pow =>
    exact isNext_ite (isNext_next _) (isNext_next _)
  all_goals exact isNext_next _

/-! ### A processing cycle -/

/-- A processing cycle takes the error of a failed fetch, or goes on with the word at `pc` in `IR` (R85 to R87). -/
theorem fetch_isNext_or_rest (s : State) (rest : State → Result) :
    (fetch s rest).IsNext ∨ ∃ w u, (s.busRead s.pc).1 = some w ∧ u.ir = w ∧ fetch s rest = rest u := by
  cases hw : (s.busRead s.pc).1 with
  | none => rw [fetch_first_failed hw]; exact .inl (isNext_next _)
  | some w =>
    cases hu : usesImmediate w with
    | false => exact .inr ⟨w, s.fetchedWord w, rfl, rfl, fetch_one hw hu⟩
    | true =>
      cases hv : ((s.fetchedWord w).busRead (s.pc + 1)).1 with
      | none => rw [fetch_second_failed hw hu hv]; exact .inl (isNext_next _)
      | some v => exact .inr ⟨w, s.fetchedImmediate w v, rfl, State.busRead_ir .., fetch_two hw hu hv⟩

/-! What the cycle makes of a word that is fetched, by its length and by whether it is an instruction. -/

section

variable {s : State} {w v : Word} (hw : (s.busRead s.pc).1 = some w)
include hw

theorem fetch_one_decoded {i : Instr} (hu : usesImmediate w = false) (hd : decodeWord w s.imm = .ok i) :
    fetch s execute = exec i (s.fetchedWord w) := by
  rw [fetch_one hw hu]
  exact execute_of_ok (by rw [State.busRead_imm, hd])

theorem fetch_two_decoded {i : Instr} (hu : usesImmediate w = true)
    (hv : ((s.fetchedWord w).busRead (s.pc + 1)).1 = some v) (hd : decodeWord w v = .ok i) :
    fetch s execute = exec i (s.fetchedImmediate w v) := by
  rw [fetch_two hw hu hv]
  exact execute_of_ok (by rw [State.busRead_ir, hd])

theorem fetch_one_illFormed (hu : usesImmediate w = false) (hill : IllFormedWord w) :
    fetch s execute = .refused (.illFormed (s.pc + 1) w s.imm) := by
  rw [fetch_one hw hu, execute_of_illFormed (s := s.fetchedWord w) hill, State.busRead_imm]

theorem fetch_two_illFormed (hu : usesImmediate w = true)
    (hv : ((s.fetchedWord w).busRead (s.pc + 1)).1 = some v) (hill : IllFormedWord w) :
    fetch s execute = .refused (.illFormed (s.pc + 1 + 1) w v) := by
  have hir : (s.fetchedImmediate w v).ir = w := State.busRead_ir ..
  rw [fetch_two hw hu hv, execute_of_illFormed (hir.symm ▸ hill), hir]

end

/-- The execute step stops only on an ill-formed word (R89, R95). -/
theorem execute_isNext_or_illFormed (s : State) :
    (execute s).IsNext ∨ IllFormedWord s.ir ∧ execute s = .refused (.illFormed s.pc s.ir s.imm) := by
  cases h : decodeWord s.ir s.imm with
  | ok i => rw [execute_of_ok h]; exact .inl (exec_isNext i s)
  | error e =>
    have hill := (illFormedWordsExactly s.ir s.imm).1 ⟨e, h⟩
    exact .inr ⟨hill, execute_of_illFormed hill⟩

/-- A step answers a next state, or has fetched an ill-formed word at `pc` and refuses it. -/
theorem step_isNext_or_illFormed (s : State) :
    Result.IsNext (step s) ∨ ∃ w p m, step s = .refused (.illFormed p w m) ∧ IllFormedWord w ∧
      ((s.taking .cycle).busRead s.pc).1 = some w := by
  cases hq : s.nextSignal with
  | reset => rw [step_reset hq]; exact .inl (isNext_next _)
  | frame => rw [step_frame hq]; exact .inl (isNext_next _)
  | cycle =>
    cases hs : s.stopped with
    | true => rw [step_cycle_stopped hq hs]; exact .inl (isNext_next _)
    | false =>
      rw [step_cycle_running hq hs]
      obtain h | ⟨_, u, hw, rfl, hx⟩ := fetch_isNext_or_rest (s.taking .cycle) execute
      · exact .inl h
      · rw [hx]
        exact (execute_isNext_or_illFormed u).imp_right fun ⟨hill, hr⟩ => ⟨u.ir, u.pc, u.imm, hr, hill, hw⟩

/-! ### The hardware error of a failed fetch -/

/-- The response to an error, seen from a state that has the same registers, internal registers and flags (R262). -/
theorem errorTaken_raise {s u : State} (e : HardwareError) (hreg : ∀ q, u.reg q = s.reg q) (hpc : u.pc = s.pc)
    (hi : SameInternals s u) : ErrorTaken e s (u.raise e) := by
  obtain ⟨hir, himm, hhalt, hwait⟩ := hi
  refine ⟨?_, ?_, ?_, ?_, ?_, ?_, rfl, fun q h4 h13 => ?_, hir, himm, hhalt, hwait⟩
  all_goals rw [State.reg_raise]
  · cases e <;> rfl
  · exact hpc
  · exact hir
  · exact himm
  · rfl
  · rfl
  · have ne : ∀ r : Reg, r.val < 4 ∨ 13 < r.val → q ≠ r := by rintro r hr rfl; omega
    rw [if_neg (ne 0 (by decide)), if_neg (ne 1 (by decide)), if_neg (ne 2 (by decide)), if_neg (ne 3 (by decide)),
      if_neg (not_or.2 ⟨ne BP (by decide), ne SP (by decide)⟩), hreg]

theorem fetch_first_failed_errorTaken {s : State} {rest : State → Result} (hw : (s.busRead s.pc).1 = none) :
    ∃ t, fetch s rest = .next t ∧ ErrorTaken .invalidMemoryRead s t ∧ SameMemory s t :=
  ⟨_, fetch_first_failed hw, errorTaken_raise _ (s.busRead_reg s.pc) (s.busRead_pc s.pc)
    ⟨s.busRead_ir s.pc, s.busRead_imm s.pc, s.busRead_halt s.pc, s.busRead_wait s.pc⟩, s.busRead_peek s.pc⟩

theorem fetch_second_failed_errorTaken {s : State} {w : Word} {rest : State → Result}
    (hw : (s.busRead s.pc).1 = some w) (hu : usesImmediate w = true)
    (hv : ((s.fetchedWord w).busRead (s.pc + 1)).1 = none) :
    ∃ t, fetch s rest = .next t ∧ ErrorTaken .invalidMemoryRead { s with ir := w, pc := s.pc + 1 } t ∧
      SameMemory s t := by
  refine ⟨_, fetch_second_failed hw hu hv, errorTaken_raise _ (fun q => ?_) ?_ ?_, fun a => ?_⟩
  all_goals simp [SameInternals]

/-! ### The statements -/

theorem step_eq_fetch {s : State} (hhalt : s.halt = false) (hwait : s.wait = false) (hq : s.nextSignal = .cycle) :
    step s = fetch (s.taking .cycle) execute :=
  step_cycle_running hq (State.stopped_eq_false.2 ⟨hhalt, hwait⟩)

theorem pc_add_two (a : Word) : a + 1 + 1 = a + 2 := BitVec.add_assoc ..

/-- Settles O5: the fetched words decode in `IR` and `Imm` as they do in the list. -/
theorem stepRunsDecodedInstruction : Obligations.StepRunsDecodedInstruction := by
  intro s i w v hhalt hwait hq s0 s1 hw
  rw [step_eq_fetch hhalt hwait hq, ← usesImmediate_eq_getLsbD, ← pc_add_two]
  exact ⟨fun hu hd => fetch_one_decoded hw hu (decodeWord_of_decode_one hu hd _),
    fun hu hv hd => fetch_two_decoded hw hu hv (decodeWord_of_decode_two hu hd)⟩

/-- Settles O6: an ill-formed word is refused after its fetch, and nothing else keeps a step from a next state. -/
theorem stepStopsExactlyOnIllFormedWords : Obligations.StepStopsExactlyOnIllFormedWords := by
  intro s s0
  refine ⟨?_, fun f hf => ?_, fun r hr => ?_⟩
  · intro w v hhalt hwait hq hill hw s1
    rw [step_eq_fetch hhalt hwait hq, ← usesImmediate_eq_getLsbD, ← pc_add_two]
    exact ⟨fun hu => fetch_one_illFormed hw hu hill, fun hu hv => fetch_two_illFormed hw hu hv hill⟩
  · obtain ⟨t, ht⟩ | ⟨w, p, m, hx, -⟩ := step_isNext_or_illFormed s
    · cases hf.symm.trans ht
    · cases hf.symm.trans hx
  · obtain ⟨t, ht⟩ | ⟨w, p, m, hx, hill, hw⟩ := step_isNext_or_illFormed s
    · cases hr.symm.trans ht
    · cases hr.symm.trans hx
      exact ⟨w, p, m, rfl, hill, hw⟩

/-- Settles O7: a failed read leaves the fetch's registers as the steps before it made them. -/
theorem failedFetchRaisesInvalidMemoryRead : Obligations.FailedFetchRaisesInvalidMemoryRead := by
  intro s w hhalt hwait hq s0 s1
  rw [step_eq_fetch hhalt hwait hq, ← usesImmediate_eq_getLsbD]
  refine ⟨fun hw => ?_, fun hw hu hv => ?_⟩
  · obtain ⟨t, ht, he, hm⟩ := fetch_first_failed_errorTaken (s := s.taking .cycle) hw
    have ⟨_, hpc, _⟩ := he
    exact ⟨t, ht, he, hpc, hm⟩
  · exact fetch_second_failed_errorTaken (s := s.taking .cycle) hw hu hv

end Machine
end Sys2Proof

/-! CPU control, jumps and the stack (spec/40_control_and_jumps.md, spec/20_memory.md R57, R58). -/

namespace Sys2Proof.Machine

/-! ### What a completed request leaves, in the terms of the statements -/

theorem State.busWrite_sameInternals (s : State) (a v : Word) : SameInternals s (s.busWrite a v).2 :=
  ⟨s.busWrite_ir a v, s.busWrite_imm a v, s.busWrite_halt a v, s.busWrite_wait a v⟩

theorem State.busRead_sameInternals (s : State) (a : Word) : SameInternals s (s.busRead a).2 :=
  ⟨s.busRead_ir a, s.busRead_imm a, s.busRead_halt a, s.busRead_wait a⟩

theorem SameInternals.trans {s t u : State} (h : SameInternals s t) (h' : SameInternals t u) : SameInternals s u := by
  obtain ⟨hir, himm, hhalt, hwait⟩ := h
  obtain ⟨hir', himm', hhalt', hwait'⟩ := h'
  exact ⟨hir'.trans hir, himm'.trans himm, hhalt'.trans hhalt, hwait'.trans hwait⟩

/-- A write request that succeeds stores its word (R55). -/
theorem State.busWrite_storedWord {s : State} {a v : Word} (hok : (s.busWrite a v).1 = true) :
    StoredWord a v s (s.busWrite a v).2 := by
  refine ⟨fun b hb => s.busWrite_peek_ne a v b hb, s.busWrite_peek_same a v hok, ?_⟩
  obtain ⟨x, hx, hhistory⟩ := s.busWrite_history a v
  obtain ⟨w, rfl⟩ := Option.isSome_iff_exists.1 (hx.trans hok)
  exact ⟨w, s.busWrite_signals a v, hhistory⟩

/-- A read request that is answered loads the answer (R54). -/
theorem State.busRead_loadedWord {s : State} {a w : Word} (h : (s.busRead a).1 = some w) :
    LoadedWord a w s (s.busRead a).2 :=
  ⟨s.busRead_peek a, s.busRead_signals a, by rw [s.busRead_history, h]⟩

/-! ### The stack -/

/-- The state after the push of a word: it is stored at SP, then SP is decremented (R57). -/
def State.pushed (s : State) (v : Word) : State := (s.busWrite (s.reg SP) v).2.setReg SP (s.reg SP - 1)

/-- The state after a pop: SP is incremented, then the word at SP is read (R58). -/
def State.popped (s : State) : State := ((s.setReg SP (s.reg SP + 1)).busRead (s.reg SP + 1)).2

theorem State.pushed_reg (s : State) (v : Word) (q : Reg) :
    (s.pushed v).reg q = if q = SP then s.reg SP - 1 else s.reg q := by
  rw [State.pushed, State.reg_setReg, State.busWrite_reg]

@[simp] theorem State.pushed_pc (s : State) (v : Word) : (s.pushed v).pc = s.pc := s.busWrite_pc _ v

theorem State.pushed_reg_SP (s : State) (v : Word) : (s.pushed v).reg SP = s.reg SP - 1 :=
  State.reg_setReg_same ..

theorem State.pushed_sameRegsBut (s : State) (v : Word) : SameRegsBut [SP] s (s.pushed v) := fun q hq => by
  rw [State.pushed_reg, if_neg (List.mem_singleton.not.1 hq)]

theorem State.pushed_sameInternals (s : State) (v : Word) : SameInternals s (s.pushed v) :=
  s.busWrite_sameInternals (s.reg SP) v

theorem State.pushed_storedWord {s : State} {v : Word} (hok : (s.busWrite (s.reg SP) v).1 = true) :
    StoredWord (s.reg SP) v s (s.pushed v) := State.busWrite_storedWord hok

theorem State.popped_reg (s : State) (q : Reg) :
    s.popped.reg q = if q = SP then s.reg SP + 1 else s.reg q := by
  rw [State.popped, State.busRead_reg, State.reg_setReg]

@[simp] theorem State.popped_pc (s : State) : s.popped.pc = s.pc :=
  (s.setReg SP (s.reg SP + 1)).busRead_pc (s.reg SP + 1)

theorem State.popped_reg_SP (s : State) : s.popped.reg SP = s.reg SP + 1 := by
  rw [State.popped_reg, if_pos rfl]

theorem State.popped_sameRegsBut (s : State) : SameRegsBut [SP] s s.popped := fun q hq => by
  rw [State.popped_reg, if_neg (List.mem_singleton.not.1 hq)]

theorem State.popped_sameInternals (s : State) : SameInternals s s.popped :=
  (s.setReg SP (s.reg SP + 1)).busRead_sameInternals (s.reg SP + 1)

theorem State.popped_sameMemory (s : State) : SameMemory s s.popped :=
  (s.setReg SP (s.reg SP + 1)).busRead_peek (s.reg SP + 1)

theorem State.popped_loadedWord {s : State} {w : Word} (h : (s.busRead (s.reg SP + 1)).1 = some w) :
    LoadedWord (s.reg SP + 1) w s s.popped :=
  State.busRead_loadedWord (s := s.setReg SP (s.reg SP + 1)) ((s.busRead_setReg_fst ..).trans h)

theorem stackPush_eq_rest_pushed {s : State} {v : Word} (rest : State → Result)
    (hok : (s.busWrite (s.reg SP) v).1 = true) (hsp : 0 ≤ (s.reg SP - 1).toInt) :
    stackPush v s rest = rest (s.pushed v) := stackPush_ok v s rest hok hsp

theorem stackPop_eq_rest_popped {s : State} {w : Word} (rest : Word → State → Result)
    (hsp : (s.reg SP + 1).toInt ≤ Config.stackTop.toInt) (h : (s.busRead (s.reg SP + 1)).1 = some w) :
    stackPop s rest = rest w s.popped := by
  rw [stackPop_inside s rest hsp]
  exact memRead_ok _ w _ rest ((s.busRead_setReg_fst ..).trans h)

/-! ### A push, and the pop after it, where SP is in RAM -/

/-- A RAM address is not above the stack, taken as a signed integer. -/
theorem toInt_le_stackTop {a : Word} (h : inRam a = true) : a.toInt ≤ Config.stackTop.toInt := by
  have hle := (inRam_iff a).1 h
  have htop : Config.stackTop.toInt = 0x003FFFFF := by decide
  rw [htop, BitVec.toInt_eq_toNat_of_lt (by omega)]
  omega

/-- The address before a RAM address other than 0 is not negative, taken as a signed integer. -/
theorem toInt_sub_one_nonneg {a : Word} (h : inRam a = true) (h0 : a ≠ 0) : 0 ≤ (a - 1).toInt := by
  have hle := (inRam_iff a).1 h
  have hsub : (a - 1).toNat = a.toNat - 1 := by bv_omega
  rw [BitVec.toInt_eq_toNat_of_lt (by omega)]
  omega

theorem stackPush_ram {s : State} {v : Word} (rest : State → Result) (hram : inRam (s.reg SP) = true)
    (h0 : s.reg SP ≠ 0) : stackPush v s rest = rest (s.pushed v) :=
  stackPush_eq_rest_pushed rest (by rw [s.busWrite_ram _ v hram]) (toInt_sub_one_nonneg hram h0)

theorem State.pushed_peek_ram {s : State} {v : Word} (hram : inRam (s.reg SP) = true) :
    (s.pushed v).peek (s.reg SP) = some v := by
  simp [State.pushed, s.busWrite_ram _ v hram, State.peek_poke]

/-- The pop that finds SP as a push into RAM left it, and the pushed word in its place, goes on with that word. -/
theorem stackPop_after_push {s t : State} {v : Word} (rest : Word → State → Result) (hram : inRam (s.reg SP) = true)
    (hsp : t.reg SP = (s.pushed v).reg SP) (hpeek : t.peek (s.reg SP) = (s.pushed v).peek (s.reg SP)) :
    stackPop t rest = rest v t.popped := by
  have hback : t.reg SP + 1 = s.reg SP := by rw [hsp, State.pushed_reg_SP, BitVec.sub_add_cancel]
  refine stackPop_eq_rest_popped rest ?_ ?_
  · rw [hback]
    exact toInt_le_stackTop hram
  · rw [hback, State.busRead_ram hram, hpeek, State.pushed_peek_ram hram]

/-- A pop after a push brings SP back, and with it every register that was not written between them. -/
theorem State.popped_reg_after_push {s t : State} {v : Word} {q : Reg} (hsp : t.reg SP = (s.pushed v).reg SP)
    (hq : t.reg q = (s.pushed v).reg q) : t.popped.reg q = s.reg q := by
  by_cases h : q = SP
  · rw [h, State.popped_reg_SP, hsp, State.pushed_reg_SP, BitVec.sub_add_cancel]
  · have hne : q ∉ [SP] := List.mem_singleton.not.2 h
    rw [t.popped_sameRegsBut q hne, hq, s.pushed_sameRegsBut v q hne]

/-! ### The instructions, by the operation they are -/

section

variable (s : State) (r1 r2 : Reg) (imm : Word)

theorem exec_hlt_eq : exec .hlt s = .next s.setHalt := rfl
theorem exec_wait_eq : exec .wait s = .next s.setWait := rfl
theorem exec_jmpImm_eq : exec (.jmpImm imm) s = .next (s.setPc imm) := rfl
theorem exec_jmpReg_eq : exec (.jmpReg r1) s = .next (s.setPc (s.reg r1)) := rfl
theorem exec_callImm_eq : exec (.callImm imm) s = stackPush s.pc s fun t => jump imm t := rfl
theorem exec_callReg_eq : exec (.callReg r1) s = stackPush s.pc s fun t => jump (t.reg r1) t := rfl
theorem exec_ret_eq : exec .ret s = stackPop s jump := rfl
theorem exec_jtImm_eq : exec (.jtImm r1 imm) s = jumpIf (s.reg r1 != 0) imm s := rfl
theorem exec_jtReg_eq : exec (.jtReg r1 r2) s = jumpIf (s.reg r1 != 0) (s.reg r2) s := rfl
theorem exec_jfImm_eq : exec (.jfImm r1 imm) s = jumpIf (s.reg r1 == 0) imm s := rfl
theorem exec_jfReg_eq : exec (.jfReg r1 r2) s = jumpIf (s.reg r1 == 0) (s.reg r2) s := rfl

end

theorem jumped_setPc (target : Word) (s : State) : Jumped target s (s.setPc target) :=
  ⟨rfl, fun _ => rfl, ⟨rfl, rfl, rfl, rfl⟩, fun _ => rfl, rfl, rfl, rfl⟩

section

variable {i : Instr} {s : State} {c : Bool} {target : Word} (hi : exec i s = jumpIf c target s)
include hi

/-- A conditional jump whose condition holds is taken (R115, R116). -/
theorem completes_jumped_of_jumpIf (hc : c = true) : Completes i s (Jumped target s) :=
  ⟨s.setPc target, hi.trans (if_pos hc), jumped_setPc target s⟩

/-- A conditional jump whose condition fails has no effect (R115, R116). -/
theorem exec_eq_next_of_jumpIf (hc : c = false) : exec i s = .next s :=
  hi.trans (if_neg (Bool.eq_false_iff.1 hc))

end

/-- Where SP is a RAM address above 0, either form of CALL pushes `pc` and jumps somewhere (R113). -/
theorem exec_call_ram {s t : State} {r1 : Reg} {imm : Word} (hram : inRam (s.reg SP) = true) (h0 : s.reg SP ≠ 0)
    (h : exec (.callImm imm) s = .next t ∨ exec (.callReg r1) s = .next t) :
    ∃ target, t = (s.pushed s.pc).setPc target := by
  rw [exec_callImm_eq, exec_callReg_eq, stackPush_ram _ hram h0, stackPush_ram _ hram h0] at h
  obtain h | h := h
  · cases h; exact ⟨_, rfl⟩
  · cases h; exact ⟨_, rfl⟩

/-! ### The statements -/

/-- Settles O26: the CALL leaves `pc` in the RAM word at the old SP, and the RET pops that word and brings SP back. -/
theorem callThenRetReturns : Obligations.CallThenRetReturns := by
  intro s t r1 imm hle h0 hcall
  have hram := (inRam_iff _).2 hle
  obtain ⟨target, rfl⟩ := exec_call_ram hram h0 hcall
  have hret : exec .ret ((s.pushed s.pc).setPc target) =
      .next (((s.pushed s.pc).setPc target).popped.setPc s.pc) :=
    (exec_ret_eq _).trans (stackPop_after_push jump hram (State.setPc_reg ..) (State.setPc_peek ..))
  have hok : (s.busWrite (s.reg SP) s.pc).1 = true := by rw [s.busWrite_ram _ _ hram]
  obtain ⟨hmem, -⟩ := State.pushed_storedWord hok
  refine ⟨_, hret, rfl, fun q => ?_, ?_, fun b hb => ?_⟩
  · exact State.popped_reg_after_push (State.setPc_reg ..) (State.setPc_reg ..)
  · exact (s.pushed_sameInternals s.pc).trans (State.popped_sameInternals _)
  · exact (State.popped_sameMemory _ b).trans (hmem b hb)

/-- Settles O21: each sets its own flag in the state as it is. -/
theorem hltAndWaitSetTheirFlag : Obligations.HltAndWaitSetTheirFlag := fun s => ⟨exec_hlt_eq s, exec_wait_eq s⟩

/-- Settles O22: both forms are the one jump. -/
theorem jmpGoesToItsOperand : Obligations.JmpGoesToItsOperand := fun s =>
  ⟨fun imm => ⟨_, exec_jmpImm_eq s imm, jumped_setPc ..⟩, fun r1 => ⟨_, exec_jmpReg_eq s r1, jumped_setPc ..⟩⟩

/-- Settles O23: a register is either zero or not, which makes the condition of JT and that of JF opposite. -/
theorem conditionalJumps : Obligations.ConditionalJumps := by
  intro s r1
  refine ⟨fun h => ?_, fun h => ?_⟩
  · have hjt : (s.reg r1 != 0) = true := bne_iff_ne.2 h
    have hjf : (s.reg r1 == 0) = false := beq_eq_false_iff_ne.2 h
    exact ⟨
        fun _ => ⟨completes_jumped_of_jumpIf (exec_jtImm_eq ..) hjt,
          exec_eq_next_of_jumpIf (exec_jfImm_eq ..) hjf⟩,
        fun _ => ⟨completes_jumped_of_jumpIf (exec_jtReg_eq ..) hjt,
          exec_eq_next_of_jumpIf (exec_jfReg_eq ..) hjf⟩⟩
  · have hjt : (s.reg r1 != 0) = false := bne_eq_false_iff_eq.2 h
    have hjf : (s.reg r1 == 0) = true := beq_iff_eq.2 h
    exact ⟨
        fun _ => ⟨completes_jumped_of_jumpIf (exec_jfImm_eq ..) hjf,
          exec_eq_next_of_jumpIf (exec_jtImm_eq ..) hjt⟩,
        fun _ => ⟨completes_jumped_of_jumpIf (exec_jfReg_eq ..) hjf,
          exec_eq_next_of_jumpIf (exec_jtReg_eq ..) hjt⟩⟩

/-- Settles O24: after the push of `pc` either form only sets `pc`, the register form from the pushed state. -/
theorem callPushesReturnAddress : Obligations.CallPushesReturnAddress := by
  intro s hok hsp p
  have hpushed (target : Word) : p ((s.pushed s.pc).setPc target) :=
    ⟨s.pushed_reg_SP s.pc, s.pushed_sameRegsBut s.pc, s.pushed_sameInternals s.pc, State.pushed_storedWord hok⟩
  refine ⟨fun imm => ?_, fun r1 => ?_⟩
  · exact ⟨_, (exec_callImm_eq s imm).trans (stackPush_eq_rest_pushed _ hok hsp), hpushed _, rfl⟩
  · exact ⟨_, (exec_callReg_eq s r1).trans (stackPush_eq_rest_pushed _ hok hsp), hpushed _, rfl⟩

/-- Settles O25: after the pop only `pc` is set, to the word popped. -/
theorem retPopsProgramCounter : Obligations.RetPopsProgramCounter := by
  intro s w hsp hread
  have hret : exec .ret s = .next (s.popped.setPc w) :=
    (exec_ret_eq s).trans (stackPop_eq_rest_popped jump hsp hread)
  exact ⟨_, hret, rfl, s.popped_reg_SP, s.popped_sameRegsBut, s.popped_sameInternals, State.popped_loadedWord hread⟩

end Sys2Proof.Machine

/-! Comparisons and CFB: each writes one truth value, and the machine's relations are the statements'
(spec/41_comparisons.md, spec/44_conversions.md R183). -/

namespace Sys2Proof.Machine

/-! ### Writing one register -/

/-- A register write changes its register and nothing else. -/
theorem regWritten_setReg (s : State) (r : Reg) (v : Word) : RegWritten r v s (s.setReg r v) :=
  ⟨s.reg_setReg_same r v, fun _ hq => s.reg_setReg_ne v hq, rfl, ⟨rfl, rfl, rfl, rfl⟩, fun _ => rfl, rfl, rfl, rfl⟩

theorem writes_of_exec_eq {i : Instr} {s : State} {r : Reg} {v : Word} (hi : exec i s = .next (s.setReg r v)) :
    Writes i s r v := ⟨s.setReg r v, hi, regWritten_setReg s r v⟩

/-- An instruction whose result is a boolean word writes the truth of what the boolean decides (R196). -/
theorem writesTruth_of_boolWord {i : Instr} {s : State} {r : Reg} {c : Bool} {p : Prop}
    (hi : exec i s = .next (s.setReg r (boolWord c))) (hc : c = true ↔ p) : WritesTruth i s r p := by
  refine ⟨fun hp => writes_of_exec_eq ?_, fun hp => writes_of_exec_eq ?_⟩
  · rw [hi, hc.2 hp]
    rfl
  · rw [hi, Bool.eq_false_iff.2 (hp ∘ hc.1)]
    rfl

/-- The common shape of the comparisons (R130, R137): whichever form reads the second operand, the truth of the
relation is written. -/
theorem writesTruth_of_compareWith {i : Instr} {s : State} {r1 : Reg} {b : Word} {rel : Word → Word → Bool}
    {p : Prop} (hi : exec i s = compareWith rel r1 b s) (hrel : rel (s.reg r1) b = true ↔ p) :
    WritesTruth i s r1 p := writesTruth_of_boolWord hi hrel

/-! ### The integer relations (R130) -/

section

variable (a b : Word)

theorem intGt_iff : intGt a b = true ↔ a.toInt > b.toInt := decide_eq_true_iff
theorem intGe_iff : intGe a b = true ↔ a.toInt ≥ b.toInt := decide_eq_true_iff
theorem intLt_iff : intLt a b = true ↔ a.toInt < b.toInt := decide_eq_true_iff
theorem intLe_iff : intLe a b = true ↔ a.toInt ≤ b.toInt := decide_eq_true_iff

end

/-! ### The float relations (R137) -/

namespace F32

/-- Float equality is the relation `≤` both ways. -/
theorem eq_iff_le_and_le (a b : Word) : eq a b = true ↔ le a b = true ∧ le b a = true := by
  have hvalue : value a = value b ↔ value a ≤ value b ∧ value b ≤ value a := le_antisymm_iff
  simp only [eq, le, ordered, Bool.and_eq_true, beq_iff_eq, decide_eq_true_eq, hvalue]
  tauto

/-- What `eq` decides: the order of the extended values is antisymmetric, so equal values are those `≤` both ways. -/
theorem eq_iff (a b : Word) :
    eq a b = true ↔ ¬ IsNaN a ∧ ¬ IsNaN b ∧ extendedValue a = extendedValue b := by
  rw [eq_iff_le_and_le, le_iff, le_iff, le_antisymm_iff]
  tauto

theorem ne_iff (a b : Word) :
    ne a b = true ↔ ¬ (¬ IsNaN a ∧ ¬ IsNaN b ∧ extendedValue a = extendedValue b) := by
  rw [ne, Bool.not_eq_true', Bool.eq_false_iff, ne_eq, eq_iff]

theorem gt_iff (a b : Word) :
    gt a b = true ↔ ¬ IsNaN a ∧ ¬ IsNaN b ∧ extendedValue a > extendedValue b :=
  (lt_iff b a).trans and_left_comm

theorem ge_iff (a b : Word) :
    ge a b = true ↔ ¬ IsNaN a ∧ ¬ IsNaN b ∧ extendedValue a ≥ extendedValue b :=
  (le_iff b a).trans and_left_comm

/-- A float differs from 0.0 exactly where its word is neither zero; so a NaN does. -/
theorem ne_zero_iff (a : Word) : ne a 0 = true ↔ a ≠ 0x00000000 ∧ a ≠ 0x80000000 := by
  rw [ne, ← isZero, Bool.not_eq_true', Bool.eq_false_iff, ne_eq, isZero_iff, not_or]

end F32

/-! ### The statements -/

/-- Settles O29: by the common shape, each relation of the machine is the one on extended values; CFB is the
comparison with 0.0. -/
theorem floatComparisons : Obligations.FloatComparisons := by
  intro s r1 holds
  refine ⟨writesTruth_of_boolWord rfl (F32.ne_zero_iff _), fun b => ?imm, fun r2 => ?reg⟩
  case imm =>
    exact ⟨writesTruth_of_compareWith rfl (F32.eq_iff _ b), writesTruth_of_compareWith rfl (F32.ne_iff _ b),
      writesTruth_of_compareWith rfl (F32.gt_iff _ b), writesTruth_of_compareWith rfl (F32.ge_iff _ b),
      writesTruth_of_compareWith rfl (F32.lt_iff _ b), writesTruth_of_compareWith rfl (F32.le_iff _ b)⟩
  case reg =>
    exact ⟨writesTruth_of_compareWith rfl (F32.eq_iff _ _), writesTruth_of_compareWith rfl (F32.ne_iff _ _),
      writesTruth_of_compareWith rfl (F32.gt_iff _ _), writesTruth_of_compareWith rfl (F32.ge_iff _ _),
      writesTruth_of_compareWith rfl (F32.lt_iff _ _), writesTruth_of_compareWith rfl (F32.le_iff _ _)⟩

/-- Settles O27: by the common shape, `==` and `!=` decide the words' equality and its negation. -/
theorem integerEquality : Obligations.IntegerEquality := fun _ _ =>
  ⟨fun _ => ⟨writesTruth_of_compareWith rfl beq_iff_eq, writesTruth_of_compareWith rfl bne_iff_ne⟩,
    fun _ => ⟨writesTruth_of_compareWith rfl beq_iff_eq, writesTruth_of_compareWith rfl bne_iff_ne⟩⟩

/-- Settles O28: by the common shape, each relation of the machine is the one on the signed readings. -/
theorem integerOrder : Obligations.IntegerOrder := by
  intro s r1
  refine ⟨fun b => ?imm, fun r2 => ?reg⟩
  case imm =>
    exact ⟨writesTruth_of_compareWith rfl (intGt_iff _ b), writesTruth_of_compareWith rfl (intGe_iff _ b),
      writesTruth_of_compareWith rfl (intLt_iff _ b), writesTruth_of_compareWith rfl (intLe_iff _ b)⟩
  case reg =>
    exact ⟨writesTruth_of_compareWith rfl (intGt_iff _ _), writesTruth_of_compareWith rfl (intGe_iff _ _),
      writesTruth_of_compareWith rfl (intLt_iff _ _), writesTruth_of_compareWith rfl (intLe_iff _ _)⟩

end Sys2Proof.Machine

/-! Data movement: the loads, the stores, the stack and the ports (spec/42_data_movement.md). -/

namespace Sys2Proof.Machine

/-! ### What a write to one more register leaves -/

/-- A register write adds its register to those that may have changed. -/
theorem SameRegsBut.setReg {rs : List Reg} {s t : State} (h : SameRegsBut rs s t) (r : Reg) (v : Word) :
    SameRegsBut (rs ++ [r]) s (t.setReg r v) := fun q hq => by
  obtain ⟨hrs, hr⟩ := not_or.1 (List.mem_append.not.1 hq)
  rw [t.reg_setReg_ne v (List.mem_singleton.not.1 hr), h q hrs]

/-- The address of `[ reg + imm ]` is the sum modulo 2^32 (R150, R151; entry 16). -/
theorem State.sumAddress_eq_ofNat (s : State) (base : Reg) (offset : Word) :
    s.sumAddress base offset = BitVec.ofNat 32 ((s.reg base).toNat + offset.toNat) :=
  BitVec.add_def _ _

/-! ### The instructions, by the operation they are -/

section

variable (s : State) (r1 r2 : Reg) (imm : Word) (port : Nat)

theorem exec_movRegImm_eq : exec (.movRegImm r1 imm) s = .next (s.setReg r1 imm) := rfl
theorem exec_movRegReg_eq : exec (.movRegReg r1 r2) s = .next (s.setReg r1 (s.reg r2)) := rfl
theorem exec_movRegMemImm_eq : exec (.movRegMemImm r1 imm) s = load r1 imm s := rfl
theorem exec_movRegMemReg_eq : exec (.movRegMemReg r1 r2) s = load r1 (s.reg r2) s := rfl
theorem exec_movRegMemRegImm_eq : exec (.movRegMemRegImm r1 r2 imm) s = load r1 (s.sumAddress r2 imm) s := rfl
theorem exec_movMemImmReg_eq : exec (.movMemImmReg r2 imm) s = store imm r2 s := rfl
theorem exec_movMemRegReg_eq : exec (.movMemRegReg r1 r2) s = store (s.reg r1) r2 s := rfl
theorem exec_movMemRegImmReg_eq : exec (.movMemRegImmReg r1 r2 imm) s = store (s.sumAddress r1 imm) r2 s := rfl
theorem exec_leaReg_eq : exec (.leaReg r1 r2) s = .next (s.setReg r1 (s.reg r2)) := rfl
theorem exec_leaRegImm_eq : exec (.leaRegImm r1 r2 imm) s = .next (s.setReg r1 (s.sumAddress r2 imm)) := rfl
theorem exec_push_eq : exec (.push r1) s = stackPush (s.reg r1) s .next := rfl
theorem exec_pop_eq : exec (.pop r1) s = stackPop s fun w t => .next (t.setReg r1 w) := rfl
theorem exec_inPort_eq : exec (.inPort r1 port) s = portRead port s fun w t => .next (t.setReg r1 w) := rfl
theorem exec_outImm_eq : exec (.outImm port imm) s = portWrite port imm s .next := rfl
theorem exec_outReg_eq : exec (.outReg port r1) s = portWrite port (s.reg r1) s .next := rfl

end

/-! ### The common shapes -/

section

variable {i : Instr} {s : State}

/-- The common shape of the loads: whichever form gives the address, the answered word is written (R54, R150). -/
theorem completes_of_load {r1 : Reg} {a w : Word} (hi : exec i s = load r1 a s) (h : (s.busRead a).1 = some w) :
    Completes i s fun t =>
      t.reg r1 = w ∧ SameRegsBut [r1] s t ∧ t.pc = s.pc ∧ SameInternals s t ∧ LoadedWord a w s t := by
  have hregs : SameRegsBut [] s (s.busRead a).2 := fun q _ => s.busRead_reg a q
  exact ⟨_, hi.trans (memRead_ok a w s _ h), State.reg_setReg_same .., hregs.setReg r1 w, s.busRead_pc a,
    s.busRead_sameInternals a, State.busRead_loadedWord h⟩

/-- The common shape of the stores: whichever form gives the address, the register's word is stored (R55, R150). -/
theorem completes_of_store {r2 : Reg} {a : Word} (hi : exec i s = store a r2 s)
    (h : (s.busWrite a (s.reg r2)).1 = true) :
    Completes i s fun t =>
      (∀ q, t.reg q = s.reg q) ∧ t.pc = s.pc ∧ SameInternals s t ∧ StoredWord a (s.reg r2) s t :=
  ⟨_, hi.trans (memWrite_ok a _ s .next h), s.busWrite_reg a _, s.busWrite_pc a _, s.busWrite_sameInternals a _,
    State.busWrite_storedWord h⟩

/-- A request that the environment answers is recorded with its answer (R69). -/
theorem State.ask_asked {q : Request} {x : Option Word} (h : s.answerTo q = x) : Asked q x s (s.ask q).2 :=
  ⟨s.ask_signals q, by rw [s.ask_history, h]⟩

/-- The common shape of `OUT`: one request, and nothing but the record of it changes (R62, R155). -/
theorem completes_of_portWrite {port : Nat} {v x : Word} (hi : exec i s = portWrite port v s .next)
    (h : s.answerTo (.portWrite port v) = some x) :
    Completes i s fun t =>
      (∀ q, t.reg q = s.reg q) ∧ t.pc = s.pc ∧ SameInternals s t ∧ SameMemory s t ∧
      Asked (.portWrite port v) (some x) s t :=
  ⟨_, hi.trans (portWrite_ok port v x s .next h), fun _ => rfl, rfl, ⟨rfl, rfl, rfl, rfl⟩, fun _ => rfl,
    State.ask_asked h⟩

end

/-! ### The statements -/

/-- Settles O35: the PUSH leaves its word in the RAM word at the old SP, and the POP reads that word and brings SP
back before it writes its register. -/
theorem pushThenPopMoves : Obligations.PushThenPopMoves := by
  intro s t r1 r2 hle h0 hpush
  have hram := (inRam_iff _).2 hle
  rw [exec_push_eq, stackPush_ram _ hram h0] at hpush
  cases hpush
  have hpop : exec (.pop r2) (s.pushed (s.reg r1)) =
      .next ((s.pushed (s.reg r1)).popped.setReg r2 (s.reg r1)) :=
    (exec_pop_eq ..).trans (stackPop_after_push _ hram rfl rfl)
  have hreg : SameRegsBut [] s (s.pushed (s.reg r1)).popped := fun _ _ => State.popped_reg_after_push rfl rfl
  have hne (q : Reg) (hq : r2 ≠ q) : ((s.pushed (s.reg r1)).popped.setReg r2 (s.reg r1)).reg q = s.reg q :=
    hreg.setReg r2 (s.reg r1) q (List.mem_singleton.not.2 hq.symm)
  have hok : (s.busWrite (s.reg SP) (s.reg r1)).1 = true := by rw [s.busWrite_ram _ _ hram]
  obtain ⟨hmem, -⟩ := State.pushed_storedWord hok
  refine ⟨_, hpop, State.reg_setReg_same .., hne SP, fun q hq => hne q ?_, ?_, ?_, fun b hb => ?_⟩
  · rintro rfl
    exact hq (List.mem_cons_of_mem _ (List.mem_singleton_self r2))
  · exact (State.popped_pc _).trans (s.pushed_pc _)
  · exact (s.pushed_sameInternals _).trans (State.popped_sameInternals _)
  · exact (State.popped_sameMemory _ b).trans (hmem b hb)

/-- Settles O30: each form is one register write, and the machine's address sum is the statement's. -/
theorem registerMoves : Obligations.RegisterMoves := by
  intro s r1 r2 imm
  rw [← s.sumAddress_eq_ofNat]
  exact ⟨writes_of_exec_eq (exec_movRegImm_eq ..), writes_of_exec_eq (exec_movRegReg_eq ..),
    writes_of_exec_eq (exec_leaReg_eq ..), writes_of_exec_eq (exec_leaRegImm_eq ..)⟩

/-- Settles O31: by the common shape, at the address of each form. -/
theorem movLoads : Obligations.MovLoads := by
  intro s r1 r2 imm w loads
  rw [← s.sumAddress_eq_ofNat]
  exact ⟨completes_of_load (exec_movRegMemImm_eq ..), completes_of_load (exec_movRegMemReg_eq ..),
    completes_of_load (exec_movRegMemRegImm_eq ..)⟩

/-- Settles O32: by the common shape, at the address of each form. -/
theorem movStores : Obligations.MovStores := by
  intro s r1 r2 imm stores
  rw [← s.sumAddress_eq_ofNat]
  exact ⟨completes_of_store (exec_movMemImmReg_eq ..), completes_of_store (exec_movMemRegReg_eq ..),
    completes_of_store (exec_movMemRegImmReg_eq ..)⟩

/-- Settles O33: the word is read before the push moves SP, so `PUSH SP` is no case of its own. -/
theorem pushStoresAndDecrements : Obligations.PushStoresAndDecrements := by
  intro s r1 hok hsp
  exact ⟨_, (exec_push_eq s r1).trans (stackPush_eq_rest_pushed _ hok hsp), s.pushed_reg_SP _,
    s.pushed_sameRegsBut _, s.pushed_pc _, s.pushed_sameInternals _, State.pushed_storedWord hok⟩

/-- Settles O34: the popped word is written last, so it is what `POP SP` leaves in SP. -/
theorem popLoadsAndIncrements : Obligations.PopLoadsAndIncrements := by
  intro s r1 w hsp hread
  have hpop : exec (.pop r1) s = .next (s.popped.setReg r1 w) :=
    (exec_pop_eq s r1).trans (stackPop_eq_rest_popped _ hsp hread)
  have hSP (hne : r1 ≠ 15) : (s.popped.setReg r1 w).reg 15 = s.reg 15 + 1 :=
    (s.popped.reg_setReg_ne w hne.symm).trans s.popped_reg_SP
  exact ⟨_, hpop, State.reg_setReg_same .., hSP, s.popped_sameRegsBut.setReg r1 w, s.popped_pc,
    s.popped_sameInternals, State.popped_loadedWord hread⟩

/-- Settles O36: both forms of OUT are the one port write, and IN writes its register after its one request. -/
theorem portAccess : Obligations.PortAccess := by
  intro s port x writes
  refine ⟨fun imm => ?outImm, fun r1 => ?outReg, fun r1 h => ?inPort⟩
  case outImm => exact completes_of_portWrite (exec_outImm_eq ..)
  case outReg => exact completes_of_portWrite (exec_outReg_eq ..)
  case inPort =>
    have hregs : SameRegsBut [] s (s.ask (.portRead port)).2 := fun _ _ => rfl
    exact ⟨_, (exec_inPort_eq s r1 port).trans (portRead_ok port x s _ h), State.reg_setReg_same ..,
      hregs.setReg r1 x, rfl, ⟨rfl, rfl, rfl, rfl⟩, fun _ => rfl, State.ask_asked h⟩

end Sys2Proof.Machine

/-! String instructions: one iteration, and the errors of one (spec/43_string_ops.md R170 to R173). -/

namespace Sys2Proof.Machine

/-! ### The updates at the end of an iteration -/

theorem State.reg_increment (s : State) (r q : Reg) :
    (s.increment r).reg q = if q = r then s.reg r + 1 else s.reg q := s.reg_setReg r q _

/-- The count and the repetition, as one update each (R170). -/
theorem State.countDown_eq (s : State) :
    s.countDown = (s.setReg CR (s.reg CR - 1)).setPc (if 0 < (s.reg CR - 1).toInt then s.pc - 1 else s.pc) := by
  simp only [State.countDown, State.reg_setReg_same, gt_iff_lt]
  split
  · rfl
  · rfl

theorem State.reg_countDown (s : State) (q : Reg) :
    s.countDown.reg q = if q = CR then s.reg CR - 1 else s.reg q := by
  rw [State.countDown_eq, State.setPc_reg, State.reg_setReg]

theorem State.pc_countDown (s : State) :
    s.countDown.pc = if 0 < (s.reg CR - 1).toInt then s.pc - 1 else s.pc := by
  rw [State.countDown_eq, State.setPc_pc]

theorem State.countDown_sameInternals (s : State) : SameInternals s s.countDown := by
  rw [State.countDown_eq]
  exact ⟨rfl, rfl, rfl, rfl⟩

/-- The state after the last updates of `MOVS` and `CMPS` (R171, R173). -/
def State.movedOn (s : State) : State := ((s.increment DR).increment SR).countDown

/-- The state after the last updates of `SETS` (R172). -/
def State.filledOn (s : State) : State := (s.increment DR).countDown

section

variable (s : State)

theorem State.reg_movedOn (q : Reg) :
    s.movedOn.reg q = if q = CR then s.reg CR - 1 else if q = SR then s.reg SR + 1
      else if q = DR then s.reg DR + 1 else s.reg q := by
  rw [State.movedOn, State.reg_countDown]
  simp only [State.reg_increment, CR, SR, DR]
  rfl

theorem State.reg_filledOn (q : Reg) :
    s.filledOn.reg q = if q = CR then s.reg CR - 1 else if q = DR then s.reg DR + 1 else s.reg q := by
  rw [State.filledOn, State.reg_countDown]
  simp only [State.reg_increment, CR, DR]
  rfl

theorem State.pc_movedOn : s.movedOn.pc = if 0 < (s.reg CR - 1).toInt then s.pc - 1 else s.pc := by
  rw [State.movedOn, State.pc_countDown]
  simp only [State.reg_increment, CR, SR, DR]
  rfl

theorem State.pc_filledOn : s.filledOn.pc = if 0 < (s.reg CR - 1).toInt then s.pc - 1 else s.pc := by
  rw [State.filledOn, State.pc_countDown]
  simp only [State.reg_increment, CR, DR]
  rfl

theorem State.movedOn_sameInternals : SameInternals s s.movedOn :=
  State.countDown_sameInternals ((s.increment DR).increment SR)

theorem State.filledOn_sameInternals : SameInternals s s.filledOn :=
  State.countDown_sameInternals (s.increment DR)

theorem State.movedOn_exchanged : Exchanged [] s s.movedOn := .moveOn s

theorem State.filledOn_exchanged : Exchanged [] s s.filledOn := (Exchanged.setReg ..).trans (.countDown _)

end

/-- Where no request was made memory is as before. -/
theorem Exchanged.sameMemory {s t : State} (h : Exchanged [] s t) : SameMemory s t := fun a =>
  h.memory a fun _ he => absurd he List.not_mem_nil

/-! ### The instructions, by the operations they are -/

section

variable (s : State) (r1 : Reg)

theorem exec_movs_eq : exec .movs s = memRead (s.reg SR) s fun v t =>
    memWrite (t.reg DR) v t fun u => .next u.movedOn := rfl

theorem exec_sets_eq : exec .sets s = memWrite (s.reg DR) (s.reg SR) s fun t => .next t.filledOn := rfl

theorem exec_cmps_eq : exec (.cmps r1) s = memRead (s.reg DR) s fun a t => memRead (t.reg SR) t fun b u =>
    if (u.setReg r1 (a - b)).reg r1 ≠ 0 then .next (u.setReg r1 (a - b))
    else .next (u.setReg r1 (a - b)).movedOn := rfl

end

/-- The state after the two reads of `CMPS` (R173). -/
def State.compared (s : State) : State := ((s.busRead (s.reg DR)).2.busRead (s.reg SR)).2

section

variable {s : State} {a b : Word}

@[simp] theorem State.reg_compared (q : Reg) : s.compared.reg q = s.reg q := by simp [State.compared]

@[simp] theorem State.pc_compared : s.compared.pc = s.pc := by simp [State.compared]

theorem State.compared_sameInternals : SameInternals s s.compared :=
  (s.busRead_sameInternals _).trans (State.busRead_sameInternals ..)

theorem State.compared_sameMemory : SameMemory s s.compared := fun c => by simp [State.compared]

theorem State.compared_signals : s.compared.signals = s.signals := by simp [State.compared]

theorem State.compared_history (ha : (s.busRead (s.reg DR)).1 = some a)
    (hb : ((s.busRead (s.reg DR)).2.busRead (s.reg SR)).1 = some b) :
    s.compared.history =
      .request (.memRead (s.reg SR)) (some b) :: .request (.memRead (s.reg DR)) (some a) :: s.history := by
  rw [State.compared, State.busRead_history, State.busRead_history, ha, hb]

end

section

variable {s : State} {r1 : Reg} {a b v : Word}

theorem exec_movs_ok (hread : (s.busRead (s.reg SR)).1 = some v)
    (hwrite : ((s.busRead (s.reg SR)).2.busWrite (s.reg DR) v).1 = true) :
    exec .movs s = .next ((s.busRead (s.reg SR)).2.busWrite (s.reg DR) v).2.movedOn := by
  rw [exec_movs_eq, memRead_ok _ _ _ _ hread, State.busRead_reg, memWrite_ok _ _ _ _ hwrite]

theorem exec_sets_ok (hwrite : (s.busWrite (s.reg DR) (s.reg SR)).1 = true) :
    exec .sets s = .next (s.busWrite (s.reg DR) (s.reg SR)).2.filledOn := by
  rw [exec_sets_eq, memWrite_ok _ _ _ _ hwrite]

/-- `CMPS` of two words that are read: it goes on exactly where their difference, the result, is zero (R173). -/
theorem exec_cmps_compared (ha : (s.busRead (s.reg DR)).1 = some a)
    (hb : ((s.busRead (s.reg DR)).2.busRead (s.reg SR)).1 = some b) :
    exec (.cmps r1) s = if a - b ≠ 0 then .next (s.compared.setReg r1 (a - b))
      else .next (s.compared.setReg r1 (a - b)).movedOn := by
  rw [exec_cmps_eq, memRead_ok _ _ _ _ ha, State.busRead_reg, memRead_ok _ _ _ _ hb, State.reg_setReg_same]
  rfl

theorem exec_cmps_ne (ha : (s.busRead (s.reg DR)).1 = some a)
    (hb : ((s.busRead (s.reg DR)).2.busRead (s.reg SR)).1 = some b) (h : a ≠ b) :
    exec (.cmps r1) s = .next (s.compared.setReg r1 (a - b)) := by
  rw [exec_cmps_compared ha hb, if_pos (sub_ne_zero.2 h)]

theorem exec_cmps_same (ha : (s.busRead (s.reg DR)).1 = some a)
    (hb : ((s.busRead (s.reg DR)).2.busRead (s.reg SR)).1 = some b) (h : a = b) :
    exec (.cmps r1) s = .next (s.compared.setReg r1 0).movedOn := by
  rw [exec_cmps_compared ha hb, sub_eq_zero.2 h, if_neg (not_not.2 rfl)]

end

/-! ### One completed iteration -/

theorem ne_count_source_dest {q : Reg} (h : q ∉ [CR, SR, DR]) : q ≠ CR ∧ q ≠ SR ∧ q ≠ DR := by
  simpa only [List.mem_cons, List.not_mem_nil, or_false, not_or] using h

/-- Settles O37: after the read and the write only the registers and `pc` are updated. -/
theorem movsIteration : Obligations.MovsIteration := by
  intro s v hread hwrite
  obtain ⟨hload, hsignals, hhistory⟩ := State.busRead_loadedWord hread
  obtain ⟨hmem, hpeek, x, hsignals', hhistory'⟩ := State.busWrite_storedWord hwrite
  have hint := (s.busRead_sameInternals (s.reg SR)).trans (State.busWrite_sameInternals _ (s.reg DR) v)
  have hlast := ((s.busRead (s.reg SR)).2.busWrite (s.reg DR) v).2.movedOn_exchanged
  refine ⟨_, exec_movs_ok hread hwrite, ?_, ?_, ?_, fun q hq => ?_, ?_,
    hint.trans (State.movedOn_sameInternals _), fun c hc => ?_, ?_, ?_, x, ?_⟩
  · simp [State.reg_movedOn, CR, SR, DR]
  · simp [State.reg_movedOn, CR, SR]
  · simp [State.reg_movedOn]
  · obtain ⟨hcr, hsr, hdr⟩ := ne_count_source_dest hq
    rw [State.reg_movedOn, if_neg hcr, if_neg hsr, if_neg hdr, State.busWrite_reg, State.busRead_reg]
  · simp [State.pc_movedOn]
  · exact (hlast.sameMemory c).trans ((hmem c hc).trans (hload c))
  · rw [hlast.sameMemory, hpeek, hload]
  · exact hlast.signals.trans (hsignals'.trans hsignals)
  · exact hlast.history.trans (hhistory'.trans (congrArg _ hhistory))

/-- Settles O38: after the write only DR, CR and `pc` are updated. -/
theorem setsIteration : Obligations.SetsIteration := by
  intro s hwrite
  obtain ⟨hmem, hpeek, x, hsignals, hhistory⟩ := State.busWrite_storedWord hwrite
  have hlast := (s.busWrite (s.reg DR) (s.reg SR)).2.filledOn_exchanged
  refine ⟨_, exec_sets_ok hwrite, ?_, ?_, fun q hq => ?_, ?_,
    (s.busWrite_sameInternals ..).trans (State.filledOn_sameInternals _), fun c hc => ?_, ?_, x, ?_, ?_⟩
  · simp [State.reg_filledOn, CR, DR]
  · simp [State.reg_filledOn]
  · obtain ⟨hcr, hdr⟩ := List.ne_and_not_mem_of_not_mem_cons hq
    rw [State.reg_filledOn, if_neg hcr, if_neg (List.mem_singleton.not.1 hdr), State.busWrite_reg]
  · simp [State.pc_filledOn]
  · exact (hlast.sameMemory c).trans (hmem c hc)
  · exact (hlast.sameMemory _).trans hpeek
  · exact hlast.signals.trans hsignals
  · exact hlast.history.trans hhistory

/-- Settles O39: the last updates read the registers after the result is written. -/
theorem cmpsIteration : Obligations.CmpsIteration := by
  intro s r1 a b ha hb
  by_cases hab : a = b
  case neg =>
    refine ⟨_, exec_cmps_ne ha hb hab, s.compared_sameInternals, State.compared_sameMemory, State.compared_signals,
      State.compared_history ha hb, fun _ => ⟨State.reg_setReg_same .., fun q hq => ?_, State.pc_compared⟩,
      fun h => absurd h hab⟩
    rw [State.reg_setReg_ne _ _ (List.mem_singleton.not.1 hq), State.reg_compared]
  case pos =>
    have hlast := (s.compared.setReg r1 0).movedOn_exchanged
    have hint := (s.compared_sameInternals).trans (s.compared.setReg r1 0).movedOn_sameInternals
    refine ⟨_, exec_cmps_same ha hb hab, hint, fun c => ?_, ?_, ?_, fun h => absurd hab h, fun _ => ?_⟩
    · exact (hlast.sameMemory c).trans (State.compared_sameMemory c)
    · exact hlast.signals.trans State.compared_signals
    · exact hlast.history.trans (State.compared_history ha hb)
    · have hx (q : Reg) : (s.compared.setReg r1 0).reg q = if q = r1 then 0 else s.reg q := by
        rw [State.reg_setReg, State.reg_compared]
      refine ⟨?_, ?_, ?_, fun q h11 h12 h13 => ?_, ?_⟩
      · exact (State.reg_movedOn _ DR).trans (congrArg (· + 1) (hx DR))
      · exact (State.reg_movedOn _ SR).trans (congrArg (· + 1) (hx SR))
      · exact (State.reg_movedOn _ CR).trans (congrArg (· - 1) (hx CR))
      · rw [State.reg_movedOn, if_neg h11, if_neg h12, if_neg h13, hx]
      · rw [State.pc_movedOn, hx, State.setReg_pc, State.pc_compared]

/-! ### An iteration whose request fails -/

/-- Nothing but the environment's side changed: requests were made, and none of them stored a word. -/
structure OnlyRequested (s t : State) : Prop where
  regs : ∀ q, t.reg q = s.reg q
  pc : t.pc = s.pc
  internals : SameInternals s t
  mem : t.mem = s.mem

theorem OnlyRequested.trans {s t u : State} (h : OnlyRequested s t) (h' : OnlyRequested t u) : OnlyRequested s u :=
  ⟨fun q => (h'.regs q).trans (h.regs q), h'.pc.trans h.pc, h.internals.trans h'.internals, h'.mem.trans h.mem⟩

theorem onlyRequested_busRead (s : State) (a : Word) : OnlyRequested s (s.busRead a).2 :=
  ⟨s.busRead_reg a, s.busRead_pc a, s.busRead_sameInternals a, s.busRead_mem a⟩

theorem onlyRequested_busWrite_failed {s : State} {a v : Word} (h : (s.busWrite a v).1 = false) :
    OnlyRequested s (s.busWrite a v).2 :=
  ⟨s.busWrite_reg a v, s.busWrite_pc a v, s.busWrite_sameInternals a v, s.busWrite_mem_failed a v h⟩

/-- The error of a failed request is taken from the registers and the memory before the instruction (R262, R264). -/
theorem completes_errorTaken {i : Instr} {s t : State} {e : HardwareError} (h : OnlyRequested s t)
    (hi : exec i s = .next (t.raise e)) : Completes i s fun u => ErrorTaken e s u ∧ SameMemory s u := by
  refine ⟨_, hi, errorTaken_raise e h.regs h.pc h.internals, fun a => ?_⟩
  rw [State.raise_peek, State.peek, h.mem, ← State.peek]

/-- Settles O60: a request fails before any register or word of memory is written. -/
theorem stringErrors : Obligations.StringErrors := by
  intro s r1 v raises
  have hread := onlyRequested_busRead s
  refine ⟨fun h => completes_errorTaken (hread (s.reg SR)) ?_, fun h h' =>
    completes_errorTaken ((hread (s.reg SR)).trans (onlyRequested_busWrite_failed h')) ?_, fun h =>
    completes_errorTaken (onlyRequested_busWrite_failed h) ?_, fun h =>
    completes_errorTaken (hread (s.reg DR)) ?_, fun h h' =>
    completes_errorTaken ((hread (s.reg DR)).trans (onlyRequested_busRead _ (s.reg SR))) ?_⟩
  · rw [exec_movs_eq, memRead_failed _ _ _ h]
  · rw [exec_movs_eq, memRead_ok _ _ _ _ h, State.busRead_reg, memWrite_failed _ _ _ _ h']
  · rw [exec_sets_eq, memWrite_failed _ _ _ _ h]
  · rw [exec_cmps_eq, memRead_failed _ _ _ h]
  · rw [exec_cmps_eq, memRead_ok _ _ _ _ h, State.busRead_reg, memRead_failed _ _ _ h']

end Sys2Proof.Machine

/-! String instructions: the run of their iterations, one cycle for each (spec/43_string_ops.md R170,
spec/70_reset_and_hazards.md R288). -/

namespace Sys2Proof.Machine

/-! ### Runs -/

theorem run_succ_iff {k : Nat} {s t : State} : Host.Core.run Sys2Proof.core (k + 1) s = .next t ↔
    ∃ u, step s = .next u ∧ Host.Core.run Sys2Proof.core k u = .next t := by
  have hstep : Sys2Proof.core.step s = step s := rfl
  simp only [Host.Core.run, hstep]
  cases h : step s with
  | next u => simp
  | fault f => simp
  | refused r => simp

/-- One more step at the end of a run. -/
theorem run_succ_of_step {k : Nat} {s t u : State} (h : Host.Core.run Sys2Proof.core k s = .next t)
    (hu : step t = .next u) : Host.Core.run Sys2Proof.core (k + 1) s = .next u := by
  induction k generalizing s with
  | zero => cases h; exact run_succ_iff.2 ⟨u, hu, rfl⟩
  | succ k ih =>
    obtain ⟨s', hs', hrun⟩ := run_succ_iff.1 h
    exact run_succ_iff.2 ⟨s', hs', ih hrun⟩

/-- A run brings no signals of its own: a schedule that is used up stays so (entry 24). -/
theorem run_signals_nil {k : Nat} {s t : State} (h : Host.Core.run Sys2Proof.core k s = .next t)
    (hs : s.signals = []) : t.signals = [] := by
  induction k generalizing s with
  | zero => cases h; exact hs
  | succ k ih =>
    obtain ⟨s', hs', hrun⟩ := run_succ_iff.1 h
    refine ih hrun ?_
    rw [(step_exchanged hs').1.signals, State.taking_signals, hs, List.tail_nil]

/-! ### The cycle of a one-word instruction -/

/-- The word is all there is of the instruction's encoding. -/
structure OneWord (i : Instr) (w : Word) : Prop where
  length : usesImmediate w = false
  decoded : decode [w] = .ok (i, [])

theorem oneWord_of_encode {i : Instr} {w : Word} (hi : i.wellFormed = true) (hl : Laws.EncodedLength.Statement i)
    (he : encode i = [w]) : OneWord i w := by
  obtain ⟨w', rest, he', hlen⟩ := hl hi
  cases he.symm.trans he'
  refine ⟨?_, ?_⟩
  · cases hu : usesImmediate w with
    | false => rfl
    | true => simp [hu] at hlen
  · rw [← he, ← List.append_nil (encode i)]
    exact decodeEncodeRoundTrip i [] hi

theorem oneWord_sets : OneWord .sets 0x68000000 := oneWord_of_encode rfl Laws.EncodedLength.sets rfl

theorem oneWord_movs : OneWord .movs 0x64000000 := oneWord_of_encode rfl Laws.EncodedLength.movs rfl

/-- The word of `CMPS` with its result register (R82; entry 1). -/
def cmpsWord (r1 : Reg) : Word := BitVec.ofNat 32 (0x6C000000 + r1.val * 2 ^ 21)

theorem oneWord_cmps (r1 : Reg) : OneWord (.cmps r1) (cmpsWord r1) :=
  oneWord_of_encode rfl (Laws.EncodedLength.cmps r1)
    (by simp [encode, cmpsWord, packWord, fieldLayout, Field.put, opcodeNumber])

/-- The state in which the execute step finds the one word `w` that a cycle signal made the CPU fetch. -/
def State.executing (t : State) (w : Word) : State := (t.taking .cycle).fetchedWord w

section

variable (t : State) (w : Word)

@[simp] theorem State.executing_reg (q : Reg) : (t.executing w).reg q = t.reg q := by simp [State.executing]
@[simp] theorem State.executing_pc : (t.executing w).pc = t.pc + 1 := rfl
@[simp] theorem State.executing_ir : (t.executing w).ir = w := rfl
@[simp] theorem State.executing_imm : (t.executing w).imm = t.imm := by simp [State.executing]
@[simp] theorem State.executing_halt : (t.executing w).halt = t.halt := by simp [State.executing]
@[simp] theorem State.executing_wait : (t.executing w).wait = t.wait := by simp [State.executing]
@[simp] theorem State.executing_peek (a : Word) : (t.executing w).peek a = t.peek a := by simp [State.executing]

end

theorem step_of_oneWord {i : Instr} {w : Word} {t : State} (hi : OneWord i w) (hhalt : t.halt = false)
    (hwait : t.wait = false) (hsignals : t.signals = []) (hpeek : t.peek t.pc = some w) :
    step t = exec i (t.executing w) := by
  have hq : t.nextSignal = .cycle := by rw [State.nextSignal, hsignals, List.headD_nil]
  have hw : ((t.taking .cycle).busRead t.pc).1 = some w := by
    rw [State.busRead_known (t.taking .cycle) _ w hpeek]
  rw [step_eq_fetch hhalt hwait hq]
  exact fetch_one_decoded hw hi.length (decodeWord_of_decode_one hi.length hi.decoded _)

/-! ### Counting, and the addresses of a range in RAM -/

theorem ofNat_sub_one {n k : Nat} (h : k < n) :
    BitVec.ofNat 32 (n - k) - 1 = BitVec.ofNat 32 (n - (k + 1)) := by
  have hn : n - k = n - (k + 1) + 1 := by omega
  rw [hn, BitVec.ofNat_add]
  exact BitVec.add_sub_cancel ..

theorem add_ofNat_succ (a : Word) (k : Nat) : a + BitVec.ofNat 32 k + 1 = a + BitVec.ofNat 32 (k + 1) := by
  rw [BitVec.ofNat_add, ← BitVec.add_assoc]
  rfl

/-- A count that fits in RAM is positive as a signed word exactly where it is not zero. -/
theorem toInt_ofNat_pos_iff {m : Nat} (h : m ≤ 0x00400000) : 0 < (BitVec.ofNat 32 m).toInt ↔ m ≠ 0 := by
  have hm : (BitVec.ofNat 32 m).toNat = m := (BitVec.toNat_ofNat ..).trans (Nat.mod_eq_of_lt (by omega))
  rw [BitVec.toInt_eq_toNat_of_lt (by omega), hm]
  omega

section

variable {a : Word} {n j : Nat} (h : RamRange a n)
include h

theorem RamRange.le : n ≤ 0x00400000 := Nat.le_of_add_left_le h

theorem RamRange.toNat_add (hj : j < n) : (a + BitVec.ofNat 32 j).toNat = a.toNat + j := by
  unfold RamRange at h
  rw [BitVec.toNat_add, BitVec.toNat_ofNat]
  omega

theorem RamRange.inRam (hj : j < n) : inRam (a + BitVec.ofNat 32 j) = true := by
  have hle := h.toNat_add hj
  unfold RamRange at h
  exact (inRam_iff _).2 (by omega)

/-- A range in RAM that is one word longer. -/
theorem RamRange.inRange_succ_iff (hj : j < n) (b : Word) :
    InRange a (j + 1) b ↔ InRange a j b ∨ b = a + BitVec.ofNat 32 j := by
  rw [← BitVec.toNat_inj, h.toNat_add hj, InRange, InRange]
  omega

end

theorem InRange.mono {a b : Word} {k n : Nat} (h : InRange a k b) (hk : k ≤ n) : InRange a n b :=
  ⟨h.1, h.2.trans_le (Nat.add_le_add_left hk _)⟩

/-! ### One more iteration -/

/-- What every string instruction does in an iteration that does not end it: CR is decremented, `pc` goes back while
CR is positive, and of the registers only CR and those listed may change (R170). -/
structure Iteration (rs : List Reg) (s t : State) : Prop where
  count : t.reg CR = s.reg CR - 1
  pc : t.pc = if 0 < (s.reg CR - 1).toInt then s.pc - 1 else s.pc
  regs : SameRegsBut (CR :: rs) s t
  internals : SameInternals s t

section

variable {s : State}

/-- `SETS` with DR in RAM. -/
theorem exec_sets_iteration (hdr : inRam (s.reg DR) = true) :
    ∃ u, exec .sets s = .next u ∧ Iteration [DR] s u ∧ u.reg DR = s.reg DR + 1 ∧
      SameMemoryBut (s.reg DR) s u ∧ u.peek (s.reg DR) = some (s.reg SR) := by
  obtain ⟨u, hx, hudr, hucr, hregs, hupc, hint, hmem, hpeek, -⟩ := setsIteration s (by rw [s.busWrite_ram _ _ hdr])
  obtain ⟨w, hw⟩ := s.peek_ram _ hdr
  exact ⟨u, hx, ⟨hucr, hupc, hregs, hint⟩, hudr, hmem, hpeek.trans (by rw [hw, Option.map_some])⟩

/-- `MOVS` with SR and DR in RAM. -/
theorem exec_movs_iteration (hsr : inRam (s.reg SR) = true) (hdr : inRam (s.reg DR) = true) :
    ∃ u, exec .movs s = .next u ∧ Iteration [SR, DR] s u ∧ u.reg SR = s.reg SR + 1 ∧ u.reg DR = s.reg DR + 1 ∧
      SameMemoryBut (s.reg DR) s u ∧ u.peek (s.reg DR) = s.peek (s.reg SR) := by
  obtain ⟨v, hv⟩ := s.peek_ram _ hsr
  obtain ⟨u, hx, hudr, husr, hucr, hregs, hupc, hint, hmem, hpeek, -⟩ :=
    movsIteration s v (by rw [State.busRead_ram hsr, hv]) (by rw [State.busWrite_ram _ _ _ hdr])
  obtain ⟨w, hw⟩ := s.peek_ram _ hdr
  exact ⟨u, hx, ⟨hucr, hupc, hregs, hint⟩, husr, hudr, hmem, hpeek.trans (by rw [hw, Option.map_some, hv])⟩

/-- An equal pair with a result register other than CR, SR and DR: the iteration goes on with the registers as they
were, but for the result (R173). -/
theorem exec_cmps_iteration {r1 : Reg} {a : Word} (hreadDr : (s.busRead (s.reg DR)).1 = some a)
    (hreadSr : ((s.busRead (s.reg DR)).2.busRead (s.reg SR)).1 = some a) (hres : r1 ∉ [CR, SR, DR]) :
    ∃ u, exec (.cmps r1) s = .next u ∧ Iteration [r1, SR, DR] s u ∧ u.reg SR = s.reg SR + 1 ∧
      u.reg DR = s.reg DR + 1 ∧ u.reg r1 = 0 ∧ SameMemory s u := by
  obtain ⟨u, hx, hint, hmem, -, -, -, hsame⟩ := cmpsIteration s r1 a a hreadDr hreadSr
  obtain ⟨hudr, husr, hucr, hregs, hupc⟩ := hsame rfl
  beta_reduce at hudr husr hucr hregs hupc
  obtain ⟨hcr, hsr, hdr⟩ := ne_count_source_dest hres
  rw [if_neg hcr.symm] at hucr hupc
  rw [if_neg hsr.symm] at husr
  rw [if_neg hdr.symm] at hudr
  have hothers : SameRegsBut [CR, r1, SR, DR] s u := fun q hq => by
    obtain ⟨hqr1, hq⟩ := List.ne_and_not_mem_of_not_mem_cons (mt (List.Perm.swap ..).mem_iff.1 hq)
    obtain ⟨hqcr, hqsr, hqdr⟩ := ne_count_source_dest hq
    rw [hregs q hqcr hqsr hqdr, if_neg hqr1]
  exact ⟨u, hx, ⟨hucr, hupc, hothers, hint⟩, husr, hudr, by rw [hregs r1 hcr hsr hdr, if_pos rfl], hmem⟩

end

section

variable {i : Instr} {w : Word} {n k : Nat} {rs : List Reg} {s t u : State}

theorem Iterated.zero (hs : StringReady w n s) : Iterated w n 0 rs s s where
  run := rfl
  count := hs.count
  pc := (if_neg (Nat.ne_of_lt hs.positive)).symm
  regs _ _ := rfl
  ir := nofun
  imm := rfl
  halt := hs.halt
  wait := hs.wait

theorem Iterated.pc_of_lt (h : Iterated w n k rs s t) (hk : k < n) : t.pc = s.pc := by
  rw [h.pc, if_neg (Nat.ne_of_lt hk)]

/-- While iterations are left the next step executes the instruction again (R170). -/
theorem Iterated.step_eq (h : Iterated w n k rs s t) (hs : StringReady w n s) (hi : OneWord i w) (hk : k < n)
    (hpeek : t.peek s.pc = some w) : step t = exec i (t.executing w) :=
  step_of_oneWord hi h.halt h.wait (run_signals_nil h.run hs.signals) (by rw [h.pc_of_lt hk, hpeek])

theorem Iterated.succ (h : Iterated w n k rs s t) (hn : n ≤ 0x00400000) (hk : k < n)
    (hstep : step t = .next u) (hu : Iteration rs (t.executing w) u) : Iterated w n (k + 1) rs s u := by
  have hcount : (t.executing w).reg CR - 1 = BitVec.ofNat 32 (n - (k + 1)) := by
    rw [State.executing_reg, h.count, ofNat_sub_one hk]
  obtain ⟨hir, himm, hhalt, hwait⟩ := hu.internals
  refine ⟨run_succ_of_step h.run hstep, hu.count.trans hcount, ?_, fun q hq => ?_, fun _ => hir, ?_, ?_, ?_⟩
  · have hpos := toInt_ofNat_pos_iff (m := n - (k + 1)) (by omega)
    rw [hu.pc, hcount, State.executing_pc, h.pc_of_lt hk, BitVec.add_sub_cancel]
    by_cases hlast : k + 1 = n
    · rw [if_pos hlast, if_neg (hpos.not.2 (by omega))]
    · rw [if_neg hlast, if_pos (hpos.2 (by omega))]
  · rw [hu.regs q hq, State.executing_reg, h.regs q hq]
  · rw [himm, State.executing_imm, h.imm]
  · rw [hhalt, State.executing_halt, h.halt]
  · rw [hwait, State.executing_wait, h.wait]

end

/-! ### What the iterations of `SETS` and `MOVS` leave in memory -/

/-- The `k` words from `dst` on read as `f` says, and every other word as before. -/
structure Filled (dst : Word) (f : Nat → Option Word) (k : Nat) (s t : State) : Prop where
  outside : ∀ a, ¬ InRange dst k a → t.peek a = s.peek a
  inside : ∀ j < k, t.peek (dst + BitVec.ofNat 32 j) = f j

section

variable {dst : Word} {f : Nat → Option Word} {n k : Nat} {s t u : State}

theorem Filled.zero : Filled dst f 0 s s := ⟨fun _ _ => rfl, nofun⟩

theorem Filled.succ (h : Filled dst f k s t) (hd : RamRange dst n) (hk : k < n)
    (hmem : SameMemoryBut (dst + BitVec.ofNat 32 k) t u) (hpeek : u.peek (dst + BitVec.ofNat 32 k) = f k) :
    Filled dst f (k + 1) s u := by
  refine ⟨fun a ha => ?_, fun j hj => ?_⟩
  · rw [hd.inRange_succ_iff hk, not_or] at ha
    rw [hmem a ha.2, h.outside a ha.1]
  · obtain hj | rfl := Nat.lt_succ_iff_lt_or_eq.1 hj
    · have hne : dst + BitVec.ofNat 32 j ≠ dst + BitVec.ofNat 32 k := by
        rw [ne_eq, ← BitVec.toNat_inj, hd.toNat_add (hj.trans hk), hd.toNat_add hk]
        omega
      rw [hmem _ hne, h.inside j hj]
    · exact hpeek

/-- The word of an instruction outside the whole range is still there. -/
theorem Filled.word {w : Word} (h : Filled dst f k s t) (hk : k ≤ n) (hs : StringReady w n s)
    (hpc : ¬ InRange dst n s.pc) : t.peek s.pc = some w :=
  (h.outside s.pc fun hin => hpc (hin.mono hk)).trans hs.word

end

/-! ### `SETS` -/

theorem sets_iterated {s : State} {n : Nat} (hs : StringReady 0x68000000 n s) (hd : RamRange (s.reg DR) n)
    (hpc : ¬ InRange (s.reg DR) n s.pc) : ∀ k ≤ n, ∃ t, Iterated 0x68000000 n k [DR] s t ∧
      t.reg DR = s.reg DR + BitVec.ofNat 32 k ∧ Filled (s.reg DR) (fun _ => some (s.reg SR)) k s t := by
  intro k hk
  induction k with
  | zero => exact ⟨s, .zero hs, (BitVec.add_zero _).symm, .zero⟩
  | succ k ih =>
    have hk' := Nat.le_of_succ_le hk
    obtain ⟨t, hit, hdr, hfill⟩ := ih hk'
    have hudr : (t.executing 0x68000000).reg DR = s.reg DR + BitVec.ofNat 32 k := by rw [State.executing_reg, hdr]
    obtain ⟨u, hx, hiter, hdr', hmem, hpeek⟩ := exec_sets_iteration (hudr ▸ hd.inRam hk)
    rw [hudr] at hdr' hmem hpeek
    rw [State.executing_reg, hit.regs SR (by decide)] at hpeek
    have hstep := (hit.step_eq hs oneWord_sets hk (hfill.word hk' hs hpc)).trans hx
    exact ⟨u, hit.succ hd.le hk hstep hiter, by rw [hdr', add_ofNat_succ],
      hfill.succ hd hk (fun a ha => (hmem a ha).trans (State.executing_peek ..)) hpeek⟩

/-! ### `MOVS` -/

/-- The place, from SR on, of the word that ends up `j` words from DR: where the destination overlaps the source above
it, the words before the destination repeat (R171). -/
def copiedFrom (src dst : Word) (j : Nat) : Nat :=
  if src.toNat < dst.toNat then j % (dst.toNat - src.toNat) else j

/-- The word that `MOVS` reads in an iteration is the one that is to end up at DR: either no iteration has written
it, or an earlier one has put a repeated word there. -/
theorem Filled.peek_source {src dst : Word} {n k : Nat} {s t : State}
    (h : Filled dst (fun j => s.peek (src + BitVec.ofNat 32 (copiedFrom src dst j))) k s t) (hr : RamRange src n)
    (hd : RamRange dst n) (hk : k < n) :
    t.peek (src + BitVec.ofNat 32 k) = s.peek (src + BitVec.ofNat 32 (copiedFrom src dst k)) := by
  have hsrc := hr.toNat_add hk
  by_cases hin : InRange dst k (src + BitVec.ofNat 32 k)
  · obtain ⟨hlo, hhi⟩ := hin
    have hlt : src.toNat < dst.toNat := by omega
    have hrepeat : src + BitVec.ofNat 32 k = dst + BitVec.ofNat 32 (k - (dst.toNat - src.toNat)) := by
      rw [← BitVec.toNat_inj, hsrc, hd.toNat_add (by omega)]
      omega
    rw [hrepeat, h.inside _ (by omega), copiedFrom, copiedFrom, if_pos hlt, if_pos hlt,
      ← Nat.mod_eq_sub_mod (by omega)]
  · have hself : copiedFrom src dst k = k := by
      unfold InRange at hin
      unfold copiedFrom
      split
      · exact Nat.mod_eq_of_lt (by omega)
      · rfl
    rw [h.outside _ hin, hself]

theorem movs_iterated {s : State} {n : Nat} (hs : StringReady 0x64000000 n s) (hr : RamRange (s.reg SR) n)
    (hd : RamRange (s.reg DR) n) (hpc : ¬ InRange (s.reg DR) n s.pc) :
    ∀ k ≤ n, ∃ t, Iterated 0x64000000 n k [SR, DR] s t ∧ t.reg SR = s.reg SR + BitVec.ofNat 32 k ∧
      t.reg DR = s.reg DR + BitVec.ofNat 32 k ∧
      Filled (s.reg DR) (fun j => s.peek (s.reg SR + BitVec.ofNat 32 (copiedFrom (s.reg SR) (s.reg DR) j))) k s t := by
  intro k hk
  induction k with
  | zero => exact ⟨s, .zero hs, (BitVec.add_zero _).symm, (BitVec.add_zero _).symm, .zero⟩
  | succ k ih =>
    have hk' := Nat.le_of_succ_le hk
    obtain ⟨t, hit, hsr, hdr, hfill⟩ := ih hk'
    have husr : (t.executing 0x64000000).reg SR = s.reg SR + BitVec.ofNat 32 k := by rw [State.executing_reg, hsr]
    have hudr : (t.executing 0x64000000).reg DR = s.reg DR + BitVec.ofNat 32 k := by rw [State.executing_reg, hdr]
    obtain ⟨u, hx, hiter, hsr', hdr', hmem, hpeek⟩ :=
      exec_movs_iteration (husr ▸ hr.inRam hk) (hudr ▸ hd.inRam hk)
    rw [husr] at hsr' hpeek
    rw [hudr] at hdr' hmem hpeek
    rw [State.executing_peek, hfill.peek_source hr hd hk] at hpeek
    have hstep := (hit.step_eq hs oneWord_movs hk (hfill.word hk' hs hpc)).trans hx
    exact ⟨u, hit.succ hd.le hk hstep hiter, by rw [hsr', add_ofNat_succ], by rw [hdr', add_ofNat_succ],
      hfill.succ hd hk (fun a ha => (hmem a ha).trans (State.executing_peek ..)) hpeek⟩

/-! ### `CMPS` -/

/-- `k` iterations of `CMPS` over equal words lead from `s` to `t` (R173). -/
structure Matched (r1 : Reg) (n k : Nat) (s t : State) : Prop where
  iterated : Iterated (cmpsWord r1) n k [r1, SR, DR] s t
  sr : t.reg SR = s.reg SR + BitVec.ofNat 32 k
  dr : t.reg DR = s.reg DR + BitVec.ofNat 32 k
  memory : SameMemory s t
  result : 1 ≤ k → t.reg r1 = 0

section

variable {r1 : Reg} {n k : Nat} {s t : State} {a b : Word}

theorem Matched.zero (hs : StringReady (cmpsWord r1) n s) : Matched r1 n 0 s s :=
  ⟨.zero hs, (BitVec.add_zero _).symm, (BitVec.add_zero _).symm, fun _ => rfl, nofun⟩

variable (h : Matched r1 n k s t) (hs : StringReady (cmpsWord r1) n s) (hr : RamRange (s.reg SR) n)
  (hd : RamRange (s.reg DR) n) (hk : k < n)
include h

include hs hk in
theorem Matched.step_eq : step t = exec (.cmps r1) (t.executing (cmpsWord r1)) :=
  h.iterated.step_eq hs (oneWord_cmps r1) hk ((h.memory s.pc).trans hs.word)

include hr hd hk

/-- After `k` equal pairs the next iteration reads the next pair. -/
theorem Matched.reads (ha : s.peek (s.reg DR + BitVec.ofNat 32 k) = some a)
    (hb : s.peek (s.reg SR + BitVec.ofNat 32 k) = some b) :
    let u := t.executing (cmpsWord r1)
    (u.busRead (u.reg DR)).1 = some a ∧ ((u.busRead (u.reg DR)).2.busRead (u.reg SR)).1 = some b := by
  intro u
  have hudr : u.reg DR = s.reg DR + BitVec.ofNat 32 k := by rw [State.executing_reg, h.dr]
  have husr : u.reg SR = s.reg SR + BitVec.ofNat 32 k := by rw [State.executing_reg, h.sr]
  refine ⟨?_, ?_⟩
  · rw [hudr, State.busRead_ram (hd.inRam hk), State.executing_peek, h.memory, ha]
  · rw [husr, State.busRead_ram (hr.inRam hk), State.busRead_peek, State.executing_peek, h.memory, hb]

include hs

/-- An equal pair is one more iteration. -/
theorem Matched.succ (hres : r1 ∉ [CR, SR, DR])
    (heq : s.peek (s.reg DR + BitVec.ofNat 32 k) = s.peek (s.reg SR + BitVec.ofNat 32 k)) :
    ∃ u, Matched r1 n (k + 1) s u := by
  obtain ⟨a, ha⟩ := s.peek_ram _ (hd.inRam hk)
  obtain ⟨hreadDr, hreadSr⟩ := h.reads hr hd hk ha (heq ▸ ha)
  obtain ⟨u, hx, hiter, husr, hudr, hresult, hmem⟩ := exec_cmps_iteration hreadDr hreadSr hres
  rw [State.executing_reg, h.sr, add_ofNat_succ] at husr
  rw [State.executing_reg, h.dr, add_ofNat_succ] at hudr
  refine ⟨u, h.iterated.succ hd.le hk ((h.step_eq hs hk).trans hx) hiter, husr, hudr, fun c => ?_, fun _ => hresult⟩
  rw [hmem, State.executing_peek, h.memory]

/-- A pair that differs ends the instruction, with the pointers and CR still at that pair. -/
theorem Matched.differs (hres : r1 ∉ [CR, SR, DR]) (ha : s.peek (s.reg DR + BitVec.ofNat 32 k) = some a)
    (hb : s.peek (s.reg SR + BitVec.ofNat 32 k) = some b) (hab : a ≠ b) :
    ∃ u, Host.Core.run Sys2Proof.core (k + 1) s = .next u ∧ u.reg r1 = a - b ∧
      u.reg SR = s.reg SR + BitVec.ofNat 32 k ∧ u.reg DR = s.reg DR + BitVec.ofNat 32 k ∧
      u.reg CR = BitVec.ofNat 32 (n - k) ∧ SameRegsBut [r1, CR, SR, DR] s u ∧ u.pc = s.pc + 1 ∧
      u.ir = cmpsWord r1 ∧ u.imm = s.imm ∧ u.halt = false ∧ u.wait = false ∧ SameMemory s u := by
  obtain ⟨hreadDr, hreadSr⟩ := h.reads hr hd hk ha hb
  obtain ⟨u, hx, ⟨hir, himm, hhalt, hwait⟩, hmem, -, -, hdiff, -⟩ := cmpsIteration _ r1 a b hreadDr hreadSr
  obtain ⟨hresult, hregs, hupc⟩ := hdiff hab
  obtain ⟨hcr, hsr, hdr⟩ := ne_count_source_dest hres
  have hsame (q : Reg) (hq : q ≠ r1) : u.reg q = t.reg q :=
    (hregs q (List.mem_singleton.not.2 hq)).trans (State.executing_reg ..)
  refine ⟨u, run_succ_of_step h.iterated.run ((h.step_eq hs hk).trans hx), hresult, ?_, ?_, ?_, fun q hq => ?_, ?_,
    hir, ?_, ?_, ?_, fun c => ?_⟩
  · rw [hsame SR hsr.symm, h.sr]
  · rw [hsame DR hdr.symm, h.dr]
  · rw [hsame CR hcr.symm, h.iterated.count]
  · rw [hsame q (List.ne_of_not_mem_cons hq), h.iterated.regs q (mt (List.Perm.swap ..).mem_iff.1 hq)]
  · rw [hupc, State.executing_pc, h.iterated.pc_of_lt hk]
  · rw [himm, State.executing_imm, h.iterated.imm]
  · rw [hhalt, State.executing_halt, h.iterated.halt]
  · rw [hwait, State.executing_wait, h.iterated.wait]
  · rw [hmem, State.executing_peek, h.memory]

end

theorem cmps_matched {s : State} {r1 : Reg} {n : Nat} (hs : StringReady (cmpsWord r1) n s)
    (hr : RamRange (s.reg SR) n) (hd : RamRange (s.reg DR) n) (hres : r1 ∉ [CR, SR, DR]) (k : Nat) (hk : k ≤ n)
    (heq : ∀ j < k, s.peek (s.reg DR + BitVec.ofNat 32 j) = s.peek (s.reg SR + BitVec.ofNat 32 j)) :
    ∃ t, Matched r1 n k s t := by
  induction k with
  | zero => exact ⟨s, .zero hs⟩
  | succ k ih =>
    obtain ⟨t, h⟩ := ih (Nat.le_of_succ_le hk) fun j hj => heq j (Nat.lt_succ_of_lt hj)
    exact h.succ hs hr hd hk hres (heq k (Nat.lt_succ_self k))

/-! ### The statement -/

/-- Settles O40: each instruction by induction on the iterations, with what they leave in memory as the invariant. -/
theorem stringRunsTakeExactlyCrCycles : Obligations.StringRunsTakeExactlyCrCycles := by
  intro s n src dst
  refine ⟨fun hs hd hpc k hk => ?sets, fun hs hr hd hpc k hk => ?movs, fun r1 hres => ?cmps⟩
  case sets =>
    obtain ⟨t, hit, hdr, hfill⟩ := sets_iterated hs hd hpc k hk
    exact ⟨t, hit, hdr, hfill.outside, hfill.inside⟩
  case movs =>
    obtain ⟨t, hit, hsr, hdr, hfill⟩ := movs_iterated hs hr hd hpc k hk
    exact ⟨t, hit, hsr, hdr, hfill.outside, hfill.inside⟩
  case cmps =>
    intro word left right hs hr hd k hk heq
    obtain ⟨t, h⟩ := cmps_matched hs hr hd hres k hk heq
    exact ⟨⟨t, h.iterated, h.sr, h.dr, h.memory, h.result⟩, fun a b hk => h.differs hs hr hd hk hres⟩

end Sys2Proof.Machine

/-! Rounding: the machine rounds an exact quotient to the nearest float, ties to even
(spec/47_float_arithmetic.md R215). -/

namespace Sys2Proof.Machine.F32

/-! ### The fields of a word made of a sign and a magnitude pattern -/

section

variable {mag : Nat} (neg : Bool) (h : mag < 2 ^ 31)

include h

theorem toNat_ofSign : (ofSign neg mag).toNat = mag + if neg then 2 ^ 31 else 0 := by
  rw [ofSign, BitVec.toNat_ofNat]
  cases neg <;> simp only [if_true, Bool.false_eq_true, if_false] <;> omega

theorem sign_ofSign : sign (ofSign neg mag) = neg := by
  rw [sign, BitVec.getLsbD, Nat.testBit_eq_decide_div_mod_eq, toNat_ofSign neg h]
  cases neg <;> simp only [if_true, Bool.false_eq_true, if_false, decide_eq_true_eq, decide_eq_false_iff_not] <;> omega

theorem exponent_ofSign : exponent (ofSign neg mag) = mag / 2 ^ 23 := by
  rw [exponent, toNat_ofSign neg h]
  split <;> omega

theorem fraction_ofSign : fraction (ofSign neg mag) = mag % 2 ^ 23 := by
  rw [fraction, toNat_ofSign neg h]
  split <;> omega

theorem getLsbD_zero_ofSign : (ofSign neg mag).getLsbD 0 = decide (mag % 2 = 1) := by
  rw [BitVec.getLsbD, Nat.testBit_eq_decide_div_mod_eq, toNat_ofSign neg h]
  congr 2
  split <;> omega

end

/-- A significand `m` above exponent `k` as a pattern: a significand of 2^24 carries into the exponent field, and one
below 2^23, which only `k = 0` has, is a subnormal. -/
theorem units_ofSign (neg : Bool) {k m : Nat} (hnormal : 2 ^ 23 ≤ m ∨ k = 0) (hm : m ≤ 2 ^ 24)
    (hfinite : k * 2 ^ 23 + m < infMagnitude) : units (ofSign neg (k * 2 ^ 23 + m)) = m * 2 ^ k := by
  unfold infMagnitude at hfinite
  have hmag : k * 2 ^ 23 + m < 2 ^ 31 := by omega
  rw [units, exponent_ofSign neg hmag, fraction_ofSign neg hmag]
  rcases lt_or_ge m (2 ^ 23) with hsub | hnorm
  · obtain rfl : k = 0 := hnormal.resolve_left hsub.not_ge
    rw [if_pos (by omega)]
    omega
  rcases hm.lt_or_eq with hlt | rfl
  · have he : (k * 2 ^ 23 + m) / 2 ^ 23 = k + 1 := by omega
    have hf : (k * 2 ^ 23 + m) % 2 ^ 23 = m - 2 ^ 23 := by omega
    rw [he, hf, if_neg k.succ_ne_zero, Nat.add_sub_cancel' hnorm, Nat.add_sub_cancel]
  · have he : (k * 2 ^ 23 + 2 ^ 24) / 2 ^ 23 = k + 2 := by omega
    have hf : (k * 2 ^ 23 + 2 ^ 24) % 2 ^ 23 = 0 := by omega
    rw [he, hf, if_neg (k + 1).succ_ne_zero, Nat.add_zero, Nat.add_sub_assoc (by decide), pow_succ 2 k]
    omega

/-- From `2^23 * 2^k` units on the floats are multiples of `2^k`. -/
theorem pow_dvd_units {k : Nat} {z : Word} (h : 2 ^ 23 * 2 ^ k ≤ units z) : 2 ^ k ∣ units z := by
  have hfrac : fraction z < 2 ^ 23 := Nat.mod_lt _ (by decide)
  have hpos : 0 < 2 ^ k := by positivity
  unfold units at h ⊢
  split
  case isTrue he =>
    rw [if_pos he] at h
    omega
  case isFalse he =>
    rw [if_neg he] at h
    refine Dvd.dvd.mul_left (pow_dvd_pow 2 ?_) _
    by_contra! hk
    have hstep : 2 ^ (exponent z - 1) * 2 ≤ 2 ^ k := pow_succ 2 (exponent z - 1) ▸ Nat.pow_le_pow_right (by decide) hk
    have hsmall : (2 ^ 23 + fraction z) * 2 ^ (exponent z - 1) < 2 ^ 24 * 2 ^ (exponent z - 1) :=
      Nat.mul_lt_mul_of_pos_right (by omega) (by positivity)
    omega

/-- No float lies between two neighbouring multiples of `2^k` units that are so large. -/
theorem units_le_or_ge {k q : Nat} (hnormal : 2 ^ 23 ≤ q ∨ k = 0) (z : Word) :
    units z ≤ q * 2 ^ k ∨ (q + 1) * 2 ^ k ≤ units z := by
  rcases hnormal with hq | rfl
  · refine (le_or_gt (units z) (q * 2 ^ k)).imp_right fun hlow => ?_
    obtain ⟨c, hc⟩ := pow_dvd_units ((Nat.mul_le_mul_right _ hq).trans hlow.le)
    rw [hc, Nat.mul_comm (2 ^ k)] at hlow ⊢
    exact Nat.mul_le_mul_right _ (Nat.lt_of_mul_lt_mul_right hlow)
  · omega

/-! ### The significand kept -/

/-- `m` is the whole number nearest to `t`, ties to even, and `q` is `t` rounded down. -/
structure NearestNat (t : ℚ) (q m : Nat) : Prop where
  lower : q ≤ t
  upper : t < q + 1
  nearest : (m = q ∧ t ≤ q + 1 / 2) ∨ (m = q + 1 ∧ q + 1 / 2 ≤ t)
  even : t = q + 1 / 2 → m % 2 = 0

/-- The rounding of the machine on natural numbers: the quotient, and one more where the remainder is above one half
of the divisor, or is one half and the quotient is odd. -/
def nearestQuotient (num step : Nat) : Nat :=
  if 2 * (num % step) > step || (2 * (num % step) == step && num / step % 2 == 1) then num / step + 1 else num / step

theorem nearestQuotient_cases (num step : Nat) :
    nearestQuotient num step = num / step ∧ 2 * (num % step) ≤ step ∨
      nearestQuotient num step = num / step + 1 ∧ step ≤ 2 * (num % step) := by
  simp only [nearestQuotient, Bool.or_eq_true, Bool.and_eq_true, decide_eq_true_eq, beq_iff_eq]
  split <;> omega

theorem nearestQuotient_even {num step : Nat} (htie : 2 * (num % step) = step) :
    nearestQuotient num step % 2 = 0 := by
  simp only [nearestQuotient, Bool.or_eq_true, Bool.and_eq_true, decide_eq_true_eq, beq_iff_eq]
  split <;> omega

theorem nearestNat_div (num : Nat) {step : Nat} (hstep : 0 < step) :
    NearestNat ((num : ℚ) / step) (num / step) (nearestQuotient num step) := by
  have hpos : (0 : ℚ) < step := by exact_mod_cast hstep
  have hrem : ((num % step : Nat) : ℚ) < step := by exact_mod_cast Nat.mod_lt num hstep
  have hnum : (num : ℚ) = ((num / step : Nat) : ℚ) * step + (num % step : Nat) := by
    exact_mod_cast (Nat.div_add_mod' num step).symm
  refine ⟨?lower, ?upper, ?nearest, fun htie => nearestQuotient_even ?tie⟩
  case lower =>
    rw [le_div_iff₀ hpos]
    linarith [(num % step).cast_nonneg (α := ℚ)]
  case upper =>
    rw [div_lt_iff₀ hpos]
    linarith
  case nearest =>
    rw [div_le_iff₀ hpos, le_div_iff₀ hpos]
    refine (nearestQuotient_cases num step).imp ?_ ?_ <;> rintro ⟨hm, hhalf⟩ <;> refine ⟨hm, ?_⟩
    · have : 2 * ((num % step : Nat) : ℚ) ≤ step := by exact_mod_cast hhalf
      linarith
    · have : (step : ℚ) ≤ 2 * (num % step : Nat) := by exact_mod_cast hhalf
      linarith
  case tie =>
    rw [div_eq_iff hpos.ne'] at htie
    have : 2 * ((num % step : Nat) : ℚ) = step := by linarith
    exact_mod_cast this

theorem NearestNat.le_succ {t : ℚ} {q m : Nat} (h : NearestNat t q m) : q ≤ m ∧ m ≤ q + 1 := by
  rcases h.nearest with ⟨rfl, -⟩ | ⟨rfl, -⟩ <;> omega

/-- The rounded significand is at least as near as every number that does not lie between its two candidates, and the
other candidate is as near only at a tie. -/
theorem NearestNat.dist_le {t : ℚ} {q m : Nat} (h : NearestNat t q m) {g : ℚ} (hg : g ≤ q ∨ (q : ℚ) + 1 ≤ g) :
    |(m : ℚ) - t| ≤ |g - t| ∧ (|(m : ℚ) - t| = |g - t| → g ≠ m → m % 2 = 0) := by
  obtain ⟨hlower, hupper, hnear, heven⟩ := h
  rcases hnear with ⟨rfl, hhalf⟩ | ⟨rfl, hhalf⟩
  · rw [abs_of_nonpos (by linarith : (m : ℚ) - t ≤ 0)]
    rcases hg with hg | hg
    · rw [abs_of_nonpos (by linarith : g - t ≤ 0)]
      exact ⟨by linarith, fun heq hne => absurd (by linarith) hne⟩
    · rw [abs_of_nonneg (by linarith : 0 ≤ g - t)]
      exact ⟨by linarith, fun heq _ => heven (by linarith)⟩
  · push_cast
    rw [abs_of_nonneg (by linarith : 0 ≤ (q : ℚ) + 1 - t)]
    rcases hg with hg | hg
    · rw [abs_of_nonpos (by linarith : g - t ≤ 0)]
      exact ⟨by linarith, fun heq _ => heven (by linarith)⟩
    · rw [abs_of_nonneg (by linarith : 0 ≤ g - t)]
      exact ⟨by linarith, fun heq hne => absurd (by linarith) hne⟩

/-- Rounding reaches an even `c` from half a unit below it on. -/
theorem NearestNat.lt_iff_of_even {t : ℚ} {q m c : Nat} (h : NearestNat t q m) (hc : c % 2 = 0) (hq : q < c) :
    m < c ↔ t < c - 1 / 2 := by
  have hqc : (q : ℚ) + 1 ≤ c := by exact_mod_cast hq
  rcases h.nearest with ⟨rfl, hhalf⟩ | ⟨rfl, hhalf⟩
  · refine iff_of_true hq (lt_of_le_of_ne (by linarith) fun htie => ?_)
    have hlast : (c : ℚ) = (m + 1 : Nat) := by
      push_cast
      linarith
    have hodd : c = m + 1 := by exact_mod_cast hlast
    have heven := h.even (by linarith)
    omega
  · rcases lt_or_eq_of_le (show q + 1 ≤ c from hq) with hlt | heq
    · have : (q : ℚ) + 1 + 1 ≤ c := by exact_mod_cast hlt
      exact iff_of_true hlt (by linarith [h.upper])
    · have : (c : ℚ) = q + 1 := by exact_mod_cast heq.symm
      exact iff_of_false (by omega) (by linarith)

/-- `y` units are rounded to `m` steps of `2^k` units: 24 significant bits are kept, fewer only for the least step. -/
structure Rounded (y : ℚ) (k q m : Nat) : Prop extends NearestNat (y / 2 ^ k) q m where
  normal : 2 ^ 23 ≤ q ∨ k = 0
  lt : q < 2 ^ 24

theorem Rounded.normal_nearest {y : ℚ} {k q m : Nat} (h : Rounded y k q m) : 2 ^ 23 ≤ m ∨ k = 0 :=
  h.normal.imp_left h.le_succ.1.trans'

theorem Rounded.nearest_le {y : ℚ} {k q m : Nat} (h : Rounded y k q m) : m ≤ 2 ^ 24 :=
  h.le_succ.2.trans h.lt

/-- What `roundMagnitude` answers: the exponent and the significand packed, an infinity at most. -/
theorem roundMagnitude_spec (num : Nat) {den : Nat} (hden : 0 < den) :
    ∃ k q m, roundMagnitude num den = Min.min (k * 2 ^ 23 + m) infMagnitude ∧ Rounded ((num : ℚ) / den) k q m := by
  obtain ⟨k, hk⟩ : ∃ k, k = (num / den).log2 - 23 := ⟨_, rfl⟩
  have hquot : num / (den * 2 ^ k) = num / den / 2 ^ k := (Nat.div_div_eq_div_mul ..).symm
  have hscale : (num : ℚ) / den / 2 ^ k = num / (den * 2 ^ k : Nat) := by
    push_cast
    exact div_div ..
  refine ⟨k, num / (den * 2 ^ k), nearestQuotient num (den * 2 ^ k), hk ▸ rfl, ?near, ?normal, ?lt⟩
  case near =>
    rw [hscale]
    exact nearestNat_div num (by positivity)
  case normal =>
    rw [hquot, Nat.le_div_iff_mul_le (by positivity), ← pow_add]
    refine (Nat.eq_zero_or_pos k).symm.imp_left fun hpos => ?_
    have hlog : 23 + k = (num / den).log2 := by omega
    rw [hlog]
    refine Nat.log2_self_le fun hzero => ?_
    rw [hzero, Nat.log2_zero] at hlog
    omega
  case lt =>
    rw [hquot, Nat.div_lt_iff_lt_mul (by positivity), ← pow_add]
    exact Nat.lt_log2_self.trans_le (Nat.pow_le_pow_right (by decide) (by omega))

/-! ### The factor of a sign -/

/-- The factor a sign stands for. -/
def signFactor (neg : Bool) : ℚ := if neg then -1 else 1

theorem abs_signFactor (neg : Bool) : |signFactor neg| = 1 := by
  cases neg <;> simp [signFactor]

theorem signFactor_mul_signFactor (a b : Bool) : signFactor a * signFactor b = signFactor (a != b) := by
  cases a <;> cases b <;> norm_num [signFactor]

theorem signFactor_mul_self (neg : Bool) : signFactor neg * signFactor neg = 1 := by
  rw [signFactor_mul_signFactor, bne_self_eq_false]
  rfl

/-- The value of a finite float by its sign and its units. -/
theorem floatValue_eq_units (w : Word) : floatValue w = signFactor (sign w) * (units w / 2 ^ 149) := by
  rw [floatValue_eq, value, signFactor]
  split <;> push_cast <;> ring

theorem abs_floatValue (w : Word) : |floatValue w| = units w / 2 ^ 149 := by
  rw [floatValue_eq_units, abs_mul, abs_signFactor, one_mul, abs_of_nonneg (by positivity)]

/-! ### Floats counted in steps

Between two candidates of a rounding the floats of the result's sign are compared in steps of `2^k` units. -/

/-- The value of a float in steps of `2^k` units, counted upwards in the direction of a sign. -/
def inSteps (neg : Bool) (k : Nat) (z : Word) : ℚ := signFactor neg * floatValue z * (2 ^ 149 / 2 ^ k)

/-- In the direction of its own sign a float counts by its units, in the other by their negative. -/
theorem inSteps_eq (neg : Bool) (k : Nat) (z : Word) :
    inSteps neg k z = signFactor (neg != sign z) * (units z / 2 ^ k) := by
  have hcancel : (units z : ℚ) / 2 ^ 149 * (2 ^ 149 / 2 ^ k) = units z / 2 ^ k :=
    div_mul_div_cancel₀ (by positivity)
  rw [inSteps, floatValue_eq_units, ← mul_assoc, signFactor_mul_signFactor, mul_assoc, hcancel]

theorem inSteps_ofSign (neg : Bool) {k m : Nat} (hnormal : 2 ^ 23 ≤ m ∨ k = 0) (hm : m ≤ 2 ^ 24)
    (hfinite : k * 2 ^ 23 + m < infMagnitude) : inSteps neg k (ofSign neg (k * 2 ^ 23 + m)) = m := by
  rw [inSteps_eq, sign_ofSign neg (hfinite.trans (by decide)), units_ofSign neg hnormal hm hfinite,
    bne_self_eq_false, signFactor, if_neg Bool.false_ne_true, one_mul]
  push_cast
  exact mul_div_cancel_right₀ _ (by positivity)

/-- No float lies between two neighbouring candidates, those of the other sign included. -/
theorem inSteps_le_or_ge (neg : Bool) {k q : Nat} (hnormal : 2 ^ 23 ≤ q ∨ k = 0) (z : Word) :
    inSteps neg k z ≤ q ∨ (q : ℚ) + 1 ≤ inSteps neg k z := by
  have hpos : (0 : ℚ) < 2 ^ k := by positivity
  rw [inSteps_eq, signFactor]
  split
  · have hz : (0 : ℚ) ≤ units z / 2 ^ k := by positivity
    have hq : (0 : ℚ) ≤ q := q.cast_nonneg
    exact .inl (by linarith)
  · rw [one_mul, div_le_iff₀ hpos, le_div_iff₀ hpos]
    exact_mod_cast units_le_or_ge hnormal z

/-- Distances are compared in steps: a sign does not change them. -/
theorem abs_floatValue_sub (neg : Bool) (k : Nat) (y : ℚ) (z : Word) :
    |floatValue z - signFactor neg * (y / 2 ^ 149)| = |inSteps neg k z - y / 2 ^ k| * (2 ^ k / 2 ^ 149) := by
  have hscaled : signFactor neg * (floatValue z - signFactor neg * (y / 2 ^ 149)) =
      (inSteps neg k z - y / 2 ^ k) * (2 ^ k / 2 ^ 149) := by
    rw [mul_sub, ← mul_assoc, signFactor_mul_self, inSteps]
    field_simp
  rw [← abs_of_pos (by positivity : (0 : ℚ) < 2 ^ k / 2 ^ 149), ← abs_mul, ← hscaled, abs_mul, abs_signFactor, one_mul]

theorem inSteps_injective {neg : Bool} {k : Nat} {z w : Word} (h : inSteps neg k z = inSteps neg k w) :
    floatValue z = floatValue w := by
  rw [inSteps, inSteps] at h
  exact mul_left_cancel₀ (left_ne_zero_of_mul_eq_one (signFactor_mul_self neg)) (mul_right_cancel₀ (by positivity) h)

/-! ### The nearest float -/

/-- The pattern of a rounded significand runs into that of an infinity from half a unit above the largest finite float
on, here in units of 2^-149. -/
theorem Rounded.lt_infMagnitude_iff {y : ℚ} {k q m : Nat} (h : Rounded y k q m) :
    k * 2 ^ 23 + m < infMagnitude ↔ y < (2 ^ 25 - 1) * 2 ^ 252 := by
  have hm := h.nearest_le
  unfold infMagnitude
  rcases lt_trichotomy k 253 with hk | rfl | hk
  case inl =>
    have hq : (q : ℚ) + 1 ≤ 2 ^ 24 := by exact_mod_cast h.lt
    refine iff_of_true (by omega) ?_
    calc y < 2 ^ 24 * 2 ^ k := (div_lt_iff₀ (by positivity)).1 (h.upper.trans_le hq)
      _ ≤ 2 ^ 24 * 2 ^ 252 := by gcongr <;> [norm_num; omega]
      _ < (2 ^ 25 - 1) * 2 ^ 252 := by norm_num
  case inr.inl =>
    have hlimit : ((2 : ℚ) ^ 25 - 1) * 2 ^ 252 = ((2 ^ 24 : Nat) - 1 / 2) * 2 ^ 253 := by norm_num
    rw [hlimit, ← div_lt_iff₀ (by positivity), ← h.lt_iff_of_even (by decide) h.lt]
    omega
  case inr.inr =>
    have hq : 2 ^ 23 ≤ q := h.normal.resolve_right (by omega)
    have hq' : (2 : ℚ) ^ 23 ≤ q := by exact_mod_cast hq
    refine iff_of_false (by have := h.le_succ; omega) (not_lt.2 ?_)
    calc ((2 : ℚ) ^ 25 - 1) * 2 ^ 252 ≤ 2 ^ 23 * 2 ^ 254 := by norm_num
      _ ≤ 2 ^ 23 * 2 ^ k := by gcongr <;> [norm_num; omega]
      _ ≤ y := (le_div_iff₀ (by positivity)).1 (hq'.trans h.lower)

theorem isFinite_ofSign (neg : Bool) {mag : Nat} (h : mag < infMagnitude) : IsFinite (ofSign neg mag) := by
  unfold infMagnitude at h
  rw [IsFinite, ← exponent_eq, exponent_ofSign neg (by omega)]
  omega

/-- A rounded significand that stays below an infinity makes the nearest float. -/
theorem Rounded.ofSign_nearest (neg : Bool) {y : ℚ} {k q m : Nat} (h : Rounded y k q m)
    (hfinite : k * 2 ^ 23 + m < infMagnitude) (z : Word) :
    let w := ofSign neg (k * 2 ^ 23 + m)
    let x := signFactor neg * (y / 2 ^ 149)
    |floatValue w - x| ≤ |floatValue z - x| ∧
      (|floatValue w - x| = |floatValue z - x| → floatValue z ≠ floatValue w → w.getLsbD 0 = false) := by
  intro w x
  have hw : inSteps neg k w = m := inSteps_ofSign neg h.normal_nearest h.nearest_le hfinite
  obtain ⟨hdist, htie⟩ := h.dist_le (inSteps_le_or_ge neg h.normal z)
  rw [abs_floatValue_sub neg k, abs_floatValue_sub neg k, hw]
  refine ⟨by gcongr, fun heq hne => ?_⟩
  have heven := htie (mul_right_cancel₀ (by positivity) heq) fun h => hne (inSteps_injective (h.trans hw.symm))
  rw [getLsbD_zero_ofSign neg (hfinite.trans (by decide))]
  exact decide_eq_false (by omega)

/-- The rule of rounding (R215): `round` gives the float nearest to the signed quotient, in units of 2^-149. -/
theorem round_roundsTo (neg : Bool) (num : Nat) {den : Nat} (hden : 0 < den) :
    RoundsTo (signFactor neg * ((num : ℚ) / den / 2 ^ 149)) (round neg num den) := by
  obtain ⟨k, q, m, hmag, h⟩ := roundMagnitude_spec num hden
  have hy : (0 : ℚ) ≤ num / den := by positivity
  rw [round, hmag]
  generalize (num : ℚ) / den = y at *
  have hfinite : |signFactor neg * (y / 2 ^ 149)| < 2 ^ 128 - 2 ^ 103 ↔ k * 2 ^ 23 + m < infMagnitude := by
    have hlimit : ((2 : ℚ) ^ 25 - 1) * 2 ^ 252 = (2 ^ 128 - 2 ^ 103) * 2 ^ 149 := by norm_num
    rw [abs_mul, abs_signFactor, one_mul, abs_of_nonneg (by positivity), div_lt_iff₀ (by positivity), ← hlimit,
      h.lt_infMagnitude_iff]
  unfold RoundsTo
  split
  case isTrue hlt =>
    rw [hfinite] at hlt
    rw [min_eq_left hlt.le]
    exact ⟨isFinite_ofSign neg hlt, fun z _ => h.ofSign_nearest neg hlt z⟩
  case isFalse hge =>
    rw [hfinite] at hge
    rw [min_eq_right (not_lt.1 hge)]
    have hpos : 0 < y / 2 ^ 149 := by
      refine div_pos (hy.lt_of_ne fun hzero => hge ?_) (by positivity)
      rw [h.lt_infMagnitude_iff, ← hzero]
      norm_num
    cases neg
    · rw [signFactor, if_neg Bool.false_ne_true, one_mul, if_neg hpos.le.not_gt]
      rfl
    · rw [signFactor, if_pos rfl, if_pos (by linarith)]
      rfl

end Sys2Proof.Machine.F32

/-! Conversions: CIF rounds the signed integer, CFI truncates, CIB and BNOT write a truth value
(spec/44_conversions.md, spec/45_binary_ops.md R194). -/

namespace Sys2Proof.Machine

namespace F32

/-- CIF's float is the nearest one to the integer: `n` is `|n| * 2^149` units with the sign of `n` (R180, D23). -/
theorem ofInt_roundsTo (n : Int) : RoundsTo n (ofInt n) := by
  have hround := round_roundsTo (decide (n < 0)) (n.natAbs * unit) Nat.one_pos
  have habs : signFactor (decide (n < 0)) * (((n.natAbs * unit : Nat) : ℚ) / (1 : Nat) / 2 ^ 149) = n := by
    rw [signFactor, unit, Nat.cast_mul, Nat.cast_natAbs]
    rcases lt_or_ge n 0 with hn | hn
    · rw [decide_eq_true hn, if_pos rfl, abs_of_neg hn]
      push_cast
      ring
    · rw [decide_eq_false hn.not_gt, if_neg Bool.false_ne_true, abs_of_nonneg hn]
      push_cast
      ring
  rwa [habs] at hround

/-- A number on the side of `b`, and no further from zero, is not positive where `b` is not. -/
theorem nonpos_of_abs_le {a b : ℚ} (hle : |a| ≤ |b|) (hside : 0 ≤ a * b) (hb : b ≤ 0) : a ≤ 0 := by
  by_contra! ha
  have hzero : b = 0 := le_antisymm hb (nonneg_of_mul_nonneg_right hside ha)
  rw [hzero, abs_zero] at hle
  exact ha.ne' (abs_nonpos_iff.1 hle)

/-- An integer between a float's value and zero and less than one away from it is the float truncated (R181). -/
theorem trunc_eq {w : Word} {n : Int} (hle : |(n : ℚ)| ≤ |floatValue w|) (hlt : |floatValue w| < |(n : ℚ)| + 1)
    (hsign : 0 ≤ (n : ℚ) * floatValue w) : trunc w = n := by
  have hfloor : units w / unit = n.natAbs := by
    rw [abs_floatValue, ← Int.cast_abs, ← Nat.cast_natAbs] at hle hlt
    rw [le_div_iff₀ (by positivity)] at hle
    rw [div_lt_iff₀ (by positivity)] at hlt
    exact Nat.div_eq_of_lt_le (by exact_mod_cast hle) (by exact_mod_cast hlt)
  have hvalue := floatValue_eq_units w
  have hsize : (0 : ℚ) ≤ units w / 2 ^ 149 := by positivity
  rw [trunc, hfloor]
  rw [signFactor] at hvalue
  split
  case isTrue hs =>
    rw [if_pos hs] at hvalue
    have hn : (n : ℚ) ≤ 0 := nonpos_of_abs_le hle hsign (by linarith)
    have : n ≤ 0 := by exact_mod_cast hn
    omega
  case isFalse hs =>
    rw [if_neg hs] at hvalue
    have hn : -(n : ℚ) ≤ 0 :=
      nonpos_of_abs_le (b := -floatValue w) (by rwa [abs_neg, abs_neg]) (by rwa [neg_mul_neg]) (by linarith)
    have : 0 ≤ n := by exact_mod_cast neg_nonpos.1 hn
    omega

/-- A truncated value that a signed 32-bit integer holds is CFI's result (R181). -/
theorem toInt_eq {w : Word} {n : Int} (hfinite : IsFinite w) (htrunc : trunc w = n) (hlow : -2 ^ 31 ≤ n)
    (hhigh : n < 2 ^ 31) : toInt w = word n := by
  have hnan : isNaN w = false := Bool.eq_false_iff.2 fun h => hfinite ((isNaN_iff w).1 h).1
  have hinf : isInf w = false := Bool.eq_false_iff.2 fun h => hfinite ((isInf_iff w).1 h).1
  have hfits : fitsInt w = true := by
    rw [fitsInt, hnan, hinf, htrunc, decide_eq_true hlow, decide_eq_true hhigh]
    rfl
  rw [toInt, if_pos hfits, htrunc]

end F32

/-! ### The statements -/

/-- Settles O41: CIF's result is rounded as the rule of rounding says; the zero is computed. -/
theorem cifRoundsToNearest : Obligations.CifRoundsToNearest := by
  intro s r1
  refine ⟨F32.ofInt (s.reg r1).toInt, writes_of_exec_eq rfl, F32.ofInt_roundsTo _, fun hzero => ?_⟩
  rw [hzero]
  decide

/-- Settles O42: an integer with the statement's bounds is the truncated value, and it fits. -/
theorem cfiTruncates : Obligations.CfiTruncates := by
  intro s r1
  refine ⟨F32.toInt (s.reg r1), writes_of_exec_eq rfl, fun n hfinite hlow hhigh hle hlt hsign => ?_⟩
  exact F32.toInt_eq hfinite (F32.trunc_eq hle hlt hsign) hlow hhigh

/-- Settles O43: both are tests of the word against zero. -/
theorem cibAndBnotTruth : Obligations.CibAndBnotTruth := fun _ _ =>
  ⟨writesTruth_of_boolWord rfl bne_iff_ne, writesTruth_of_boolWord rfl beq_iff_eq⟩

end Sys2Proof.Machine

/-! Binary operations: NOT, AND, OR and XOR bit by bit, and the shift by a signed count
(spec/45_binary_ops.md R190 to R195). -/

namespace Sys2Proof.Machine

/-! ### The instructions, by the operation they are -/

section

variable (s : State) (r1 r2 : Reg) (imm : Word)

theorem exec_notReg_eq : exec (.notReg r1) s = updateReg (~~~ ·) r1 s := rfl
theorem exec_andImm_eq : exec (.andImm r1 imm) s = updateWith (· &&& ·) r1 imm s := rfl
theorem exec_andReg_eq : exec (.andReg r1 r2) s = updateWith (· &&& ·) r1 (s.reg r2) s := rfl
theorem exec_orImm_eq : exec (.orImm r1 imm) s = updateWith (· ||| ·) r1 imm s := rfl
theorem exec_orReg_eq : exec (.orReg r1 r2) s = updateWith (· ||| ·) r1 (s.reg r2) s := rfl
theorem exec_xorImm_eq : exec (.xorImm r1 imm) s = updateWith (· ^^^ ·) r1 imm s := rfl
theorem exec_xorReg_eq : exec (.xorReg r1 r2) s = updateWith (· ^^^ ·) r1 (s.reg r2) s := rfl
theorem exec_shlImm_eq : exec (.shlImm r1 imm) s = updateWith shiftLeft r1 imm s := rfl
theorem exec_shlReg_eq : exec (.shlReg r1 r2) s = updateWith shiftLeft r1 (s.reg r2) s := rfl

end

theorem writes_of_updateReg {i : Instr} {s : State} {r1 : Reg} {f : Word → Word} (hi : exec i s = updateReg f r1 s) :
    Writes i s r1 (f (s.reg r1)) := writes_of_exec_eq hi

theorem writes_of_updateWith {i : Instr} {s : State} {r1 : Reg} {b : Word} {f : Word → Word → Word}
    (hi : exec i s = updateWith f r1 b s) : Writes i s r1 (f (s.reg r1) b) := writes_of_exec_eq hi

/-! ### The shift by a signed count (R195) -/

section

variable (a : Word) {b : Word}

/-- The guard of the shift to the left is no case of its own: 32 positions and more leave 0 (D11). -/
theorem shiftLeft_of_nonneg (h : 0 ≤ b.toInt) : shiftLeft a b = a <<< b.toInt.toNat := by
  rw [shiftLeft, if_pos h]
  split
  case isTrue => rfl
  case isFalse hlarge => exact (BitVec.shiftLeft_eq_zero (by omega)).symm

/-- The guard of the shift to the right is no case of its own either. -/
theorem shiftLeft_of_neg (h : ¬ 0 ≤ b.toInt) : shiftLeft a b = a >>> (-b.toInt).toNat := by
  rw [shiftLeft, if_neg h]
  split
  case isTrue => rfl
  case isFalse hlarge => exact (BitVec.ushiftRight_eq_zero (by omega)).symm

theorem word_shiftLeft_eq_ofNat (n : Nat) : a <<< n = BitVec.ofNat 32 (a.toNat * 2 ^ n) := by
  apply BitVec.eq_of_toNat_eq
  rw [BitVec.toNat_shiftLeft, BitVec.toNat_ofNat, Nat.shiftLeft_eq]

theorem word_ushiftRight_eq_ofNat (n : Nat) : a >>> n = BitVec.ofNat 32 (a.toNat / 2 ^ n) := by
  rw [← Nat.shiftRight_eq_div_pow, ← BitVec.toNat_ushiftRight, BitVec.ofNat_toNat, BitVec.setWidth_eq]

/-- R195's two formulas are the two shifts, which are unsigned. -/
theorem shiftLeft_eq_formula (b : Word) :
    shiftLeft a b = if 0 ≤ b.toInt then BitVec.ofNat 32 (a.toNat * 2 ^ b.toInt.toNat)
      else BitVec.ofNat 32 (a.toNat / 2 ^ (-b.toInt).toNat) := by
  split
  case isTrue h => rw [shiftLeft_of_nonneg a h, word_shiftLeft_eq_ofNat]
  case isFalse h => rw [shiftLeft_of_neg a h, word_ushiftRight_eq_ofNat]

end

/-! ### The operations on bits (R190 to R193) -/

/-- The common shape of the two-operand forms: an operation on words that acts on each bit by `f` writes those bits. -/
theorem bitwise_of_updateWith {i : Instr} {s : State} {r1 : Reg} {b : Word} {op : Word → Word → Word}
    {f : Bool → Bool → Bool} (hi : exec i s = updateWith op r1 b s)
    (hop : ∀ {x y : Word} {k : Nat}, (op x y).getLsbD k = f (x.getLsbD k) (y.getLsbD k)) :
    ∃ v, Writes i s r1 v ∧ ∀ k < 32, v.getLsbD k = f ((s.reg r1).getLsbD k) (b.getLsbD k) :=
  ⟨op (s.reg r1) b, writes_of_updateWith hi, fun _ _ => hop⟩

/-- Only below bit 32: a `BitVec` reads 0 above its width, before and after NOT. -/
theorem getLsbD_not_word (a : Word) {k : Nat} (hk : k < 32) : (~~~a).getLsbD k = !a.getLsbD k := by
  rw [BitVec.getLsbD_not, decide_eq_true hk, Bool.true_and]

/-! ### The statements -/

/-- Settles O45: both forms write `shiftLeft`, which is R195's formula for every count. -/
theorem shiftByFormula : Obligations.ShiftByFormula := by
  intro s r1 shifted
  have hshl (b : Word) : shiftLeft (s.reg r1) b = shifted (s.reg r1) b := shiftLeft_eq_formula _ b
  refine ⟨fun b => ?_, fun r2 => ?_⟩
  · rw [← hshl b]
    exact writes_of_updateWith (exec_shlImm_eq ..)
  · rw [← hshl (s.reg r2)]
    exact writes_of_updateWith (exec_shlReg_eq ..)

/-- Settles O44: each form writes an operation on words that acts bit by bit. -/
theorem bitwiseOperations : Obligations.BitwiseOperations := by
  intro s r1
  refine ⟨⟨~~~(s.reg r1), writes_of_updateReg (exec_notReg_eq ..), fun k hk => getLsbD_not_word _ hk⟩,
    fun b => ⟨?_, ?_, ?_⟩, fun r2 => ⟨?_, ?_, ?_⟩⟩
  · exact bitwise_of_updateWith (exec_andImm_eq ..) BitVec.getLsbD_and
  · exact bitwise_of_updateWith (exec_orImm_eq ..) BitVec.getLsbD_or
  · exact bitwise_of_updateWith (exec_xorImm_eq ..) BitVec.getLsbD_xor
  · exact bitwise_of_updateWith (exec_andReg_eq ..) BitVec.getLsbD_and
  · exact bitwise_of_updateWith (exec_orReg_eq ..) BitVec.getLsbD_or
  · exact bitwise_of_updateWith (exec_xorReg_eq ..) BitVec.getLsbD_xor

end Sys2Proof.Machine

/-! Integer arithmetic: the exact result modulo 2^32, the signed minimum, maximum and absolute value, and the division
rounded toward zero (spec/46_integer_arithmetic.md R200 to R209). -/

namespace Sys2Proof.Machine

/-! ### The instructions, by the operation they are -/

section

variable (s : State) (r1 r2 : Reg) (imm : Word)

theorem exec_iaddImm_eq : exec (.iaddImm r1 imm) s = updateWith (fun a b => word (a.toInt + b.toInt)) r1 imm s := rfl
theorem exec_iaddReg_eq :
    exec (.iaddReg r1 r2) s = updateWith (fun a b => word (a.toInt + b.toInt)) r1 (s.reg r2) s := rfl
theorem exec_isubImm_eq : exec (.isubImm r1 imm) s = updateWith (fun a b => word (a.toInt - b.toInt)) r1 imm s := rfl
theorem exec_isubReg_eq :
    exec (.isubReg r1 r2) s = updateWith (fun a b => word (a.toInt - b.toInt)) r1 (s.reg r2) s := rfl
theorem exec_imulImm_eq : exec (.imulImm r1 imm) s = updateWith (fun a b => word (a.toInt * b.toInt)) r1 imm s := rfl
theorem exec_imulReg_eq :
    exec (.imulReg r1 r2) s = updateWith (fun a b => word (a.toInt * b.toInt)) r1 (s.reg r2) s := rfl
theorem exec_idivImm_eq :
    exec (.idivImm r1 imm) s = updateUnless divisorZero .divisionError quotient r1 imm s := rfl
theorem exec_idivReg_eq :
    exec (.idivReg r1 r2) s = updateUnless divisorZero .divisionError quotient r1 (s.reg r2) s := rfl
theorem exec_imodImm_eq :
    exec (.imodImm r1 imm) s = updateUnless divisorZero .divisionError remainder r1 imm s := rfl
theorem exec_imodReg_eq :
    exec (.imodReg r1 r2) s = updateUnless divisorZero .divisionError remainder r1 (s.reg r2) s := rfl
theorem exec_isgn_eq : exec (.isgn r1) s = updateReg intNeg r1 s := rfl
theorem exec_iminImm_eq :
    exec (.iminImm r1 imm) s = updateWith (fun a b => if b.toInt < a.toInt then b else a) r1 imm s := rfl
theorem exec_iminReg_eq :
    exec (.iminReg r1 r2) s = updateWith (fun a b => if b.toInt < a.toInt then b else a) r1 (s.reg r2) s := rfl
theorem exec_imaxImm_eq :
    exec (.imaxImm r1 imm) s = updateWith (fun a b => if b.toInt > a.toInt then b else a) r1 imm s := rfl
theorem exec_imaxReg_eq :
    exec (.imaxReg r1 r2) s = updateWith (fun a b => if b.toInt > a.toInt then b else a) r1 (s.reg r2) s := rfl
theorem exec_iabs_eq : exec (.iabs r1) s = updateReg intAbs r1 s := rfl

end

/-- An instruction with a mathematical error writes its result where the error's condition fails. -/
theorem writes_of_updateUnless {i : Instr} {s : State} {r1 : Reg} {b : Word} {bad : Word → Word → Bool}
    {e : HardwareError} {f : Word → Word → Word} (hi : exec i s = updateUnless bad e f r1 b s)
    (hok : bad (s.reg r1) b = false) : Writes i s r1 (f (s.reg r1) b) :=
  writes_of_updateWith (hi.trans (if_neg (Bool.eq_false_iff.1 hok)))

/-! ### The word of an exact result (R200) -/

/-- The word of an integer differs from it by a multiple of 2^32. -/
theorem dvd_toInt_word_sub (n : Int) : (2 : Int) ^ 32 ∣ (word n).toInt - n := by
  rw [BitVec.toInt_ofInt]
  exact Int.dvd_bmod_sub_self

/-- An integer that 32 signed bits hold is what its word reads as. -/
theorem toInt_word_of_fits {n : Int} (hlow : -2 ^ 31 ≤ n) (hhigh : n < 2 ^ 31) : (word n).toInt = n :=
  BitVec.toInt_ofInt_eq_self (by decide) hlow hhigh

/-- The common shape of the two-operand forms that compute exactly: the word written is that of the exact result. -/
theorem congruent_of_updateWith {i : Instr} {s : State} {r1 : Reg} {b : Word} (op : Int → Int → Int)
    (hi : exec i s = updateWith (fun x y => word (op x.toInt y.toInt)) r1 b s) :
    ∃ v, Writes i s r1 v ∧ (2 : Int) ^ 32 ∣ v.toInt - op (s.reg r1).toInt b.toInt :=
  ⟨_, writes_of_updateWith hi, dvd_toInt_word_sub _⟩

/-! ### Minimum, maximum and absolute value (R207 to R209) -/

section

variable (a b : Word)

/-- IMIN keeps the first operand unless the second is smaller. -/
theorem toInt_intMin : (if b.toInt < a.toInt then b else a).toInt = min a.toInt b.toInt := by
  split
  case isTrue h => exact (min_eq_right h.le).symm
  case isFalse h => exact (min_eq_left (not_lt.1 h)).symm

/-- IMAX keeps the first operand unless the second is larger. -/
theorem toInt_intMax : (if b.toInt > a.toInt then b else a).toInt = max a.toInt b.toInt := by
  split
  case isTrue h => exact (max_eq_right h.le).symm
  case isFalse h => exact (max_eq_left (not_lt.1 h)).symm

variable {a}

/-- Every word but the least has an absolute value that 32 signed bits hold (entry 14). -/
theorem toInt_intAbs (h : a ≠ 0x80000000) : (intAbs a).toInt = |a.toInt| := by
  rw [intAbs]
  split
  case isFalse hneg => exact (abs_of_nonneg (not_lt.1 hneg)).symm
  case isTrue hneg =>
    have hleast : a.toInt ≠ -2 ^ 31 := fun heq => h (BitVec.toInt_inj.1 heq)
    have hlow : -2 ^ 31 ≤ a.toInt := a.le_toInt
    rw [abs_of_neg hneg]
    exact toInt_word_of_fits (by omega) (by omega)

theorem intAbs_least : intAbs 0x80000000 = 0x80000000 := by decide

end

/-! ### Division rounded toward zero (R204, R205) -/

/-- The remainder of a division rounded toward zero is zero or has the dividend's sign. -/
theorem tmod_mul_dividend_nonneg (m n : Int) : 0 ≤ m.tmod n * m := by
  rcases le_total 0 m with h | h
  · exact mul_nonneg (Int.tmod_nonneg n h) h
  · have hneg : 0 ≤ (-m).tmod n := Int.tmod_nonneg n (neg_nonneg.2 h)
    rw [Int.neg_tmod] at hneg
    exact mul_nonneg_of_nonpos_of_nonpos (neg_nonneg.1 hneg) h

/-- The remainder of a division is smaller than the divisor. -/
theorem abs_tmod_lt_abs (m : Int) {n : Int} (h : n ≠ 0) : |m.tmod n| < |n| := by
  rw [Int.abs_eq_natAbs, Int.abs_eq_natAbs, Int.natAbs_tmod]
  exact Int.ofNat_lt.2 (Nat.mod_lt _ (Int.natAbs_pos.2 h))

section

variable {a b : Word}

theorem divOverflows_eq_false (h : ¬ (a = 0x80000000 ∧ b = 0xFFFFFFFF)) : divOverflows a b = false := by
  rw [divOverflows, Bool.and_eq_false_iff, beq_eq_false_iff_ne, beq_eq_false_iff_ne]
  exact not_and_or.1 h

/-- The only quotient of two signed words that is no signed word is that of -2^31 by -1. -/
theorem toInt_quotient (h : ¬ (a = 0x80000000 ∧ b = 0xFFFFFFFF)) : (quotient a b).toInt = a.toInt.tdiv b.toInt := by
  rw [quotient, divOverflows_eq_false h, if_neg Bool.false_ne_true, BitVec.toInt_ofInt, ← BitVec.toInt_sdiv]
  exact BitVec.toInt_sdiv_of_ne_or_ne a b (not_and_or.1 h)

theorem toInt_remainder (h : ¬ (a = 0x80000000 ∧ b = 0xFFFFFFFF)) : (remainder a b).toInt = a.toInt.tmod b.toInt := by
  rw [remainder, divOverflows_eq_false h, if_neg Bool.false_ne_true, ← Int.tmod_def, ← BitVec.toInt_srem]
  exact congrArg BitVec.toInt BitVec.ofInt_toInt

/-- What determines the division rounded toward zero holds of the two results. -/
theorem quotient_remainder_spec (h : ¬ (a = 0x80000000 ∧ b = 0xFFFFFFFF)) (hb : b ≠ 0) :
    a.toInt = b.toInt * (quotient a b).toInt + (remainder a b).toInt ∧ |(remainder a b).toInt| < |b.toInt| ∧
      0 ≤ (remainder a b).toInt * a.toInt := by
  have hdivisor : b.toInt ≠ 0 := fun h0 => hb (BitVec.toInt_inj.1 h0)
  rw [toInt_quotient h, toInt_remainder h]
  exact ⟨(Int.mul_tdiv_add_tmod ..).symm, abs_tmod_lt_abs _ hdivisor, tmod_mul_dividend_nonneg ..⟩

end

/-- The common shape of IDIV and IMOD: whichever form reads the divisor, both write a result of the one division. -/
theorem divides_of_updateUnless {quo rem : Instr} {s : State} {r1 : Reg} {b : Word}
    (hquo : exec quo s = updateUnless divisorZero .divisionError quotient r1 b s)
    (hrem : exec rem s = updateUnless divisorZero .divisionError remainder r1 b s) (hb : b ≠ 0) :
    ∃ q r, Writes quo s r1 q ∧ Writes rem s r1 r ∧ (¬ (s.reg r1 = 0x80000000 ∧ b = 0xFFFFFFFF) →
      (s.reg r1).toInt = b.toInt * q.toInt + r.toInt ∧ |r.toInt| < |b.toInt| ∧ 0 ≤ r.toInt * (s.reg r1).toInt) := by
  have hok : divisorZero (s.reg r1) b = false := beq_eq_false_iff_ne.2 hb
  exact ⟨_, _, writes_of_updateUnless hquo hok, writes_of_updateUnless hrem hok,
    fun hfits => quotient_remainder_spec hfits hb⟩

/-! ### The statements -/

/-- Settles O48: both forms of IDIV and IMOD have the common shape. -/
theorem integerDivision : Obligations.IntegerDivision := fun _ _ =>
  ⟨fun _ => divides_of_updateUnless (exec_idivImm_eq ..) (exec_imodImm_eq ..),
    fun _ => divides_of_updateUnless (exec_idivReg_eq ..) (exec_imodReg_eq ..)⟩

/-- Settles O46: each form writes the word of the exact result. -/
theorem integerArithmetic : Obligations.IntegerArithmetic := by
  intro s r1
  refine ⟨⟨_, writes_of_updateReg (exec_isgn_eq ..), dvd_toInt_word_sub _⟩, fun b => ⟨?_, ?_, ?_⟩,
    fun r2 => ⟨?_, ?_, ?_⟩⟩
  · exact congruent_of_updateWith (· + ·) (exec_iaddImm_eq ..)
  · exact congruent_of_updateWith (· - ·) (exec_isubImm_eq ..)
  · exact congruent_of_updateWith (· * ·) (exec_imulImm_eq ..)
  · exact congruent_of_updateWith (· + ·) (exec_iaddReg_eq ..)
  · exact congruent_of_updateWith (· - ·) (exec_isubReg_eq ..)
  · exact congruent_of_updateWith (· * ·) (exec_imulReg_eq ..)

/-- Settles O47: each form writes a word that reads as the result, and the absolute value of the least word is
computed. -/
theorem integerMinMaxAbs : Obligations.IntegerMinMaxAbs := by
  intro s r1
  refine ⟨fun h => ?iabs, fun h => ?iabsLeast, fun b => ⟨?iminImm, ?imaxImm⟩, fun r2 => ⟨?iminReg, ?imaxReg⟩⟩
  case iabs => exact ⟨_, writes_of_updateReg (exec_iabs_eq ..), toInt_intAbs h⟩
  case iabsLeast =>
    have hwrites := writes_of_updateReg (exec_iabs_eq s r1)
    rwa [h, intAbs_least] at hwrites
  case iminImm => exact ⟨_, writes_of_updateWith (exec_iminImm_eq ..), toInt_intMin ..⟩
  case imaxImm => exact ⟨_, writes_of_updateWith (exec_imaxImm_eq ..), toInt_intMax ..⟩
  case iminReg => exact ⟨_, writes_of_updateWith (exec_iminReg_eq ..), toInt_intMin ..⟩
  case imaxReg => exact ⟨_, writes_of_updateWith (exec_imaxReg_eq ..), toInt_intMax ..⟩

end Sys2Proof.Machine

/-! Float arithmetic: sums, products, quotients and remainders, the sign bit, minimum and maximum
(spec/47_float_arithmetic.md R215 to R224). -/

namespace Sys2Proof.Machine

namespace F32

/-! ### Zeros, infinities, NaNs and results of rounding -/

theorem not_isNaN_of_isFinite {w : Word} (h : IsFinite w) : ¬ IsNaN w := fun hnan => h hnan.1
theorem not_isInfinity_of_isFinite {w : Word} (h : IsFinite w) : ¬ IsInfinity w := fun hinf => h hinf.1
theorem not_isNaN_of_isInfinity {w : Word} (h : IsInfinity w) : ¬ IsNaN w := fun hnan => hnan.2 h.2

theorem isNaN_isInf_of_isFinite {w : Word} (h : IsFinite w) : isNaN w = false ∧ isInf w = false :=
  ⟨Bool.eq_false_iff.2 (not_isNaN_of_isFinite h ∘ (isNaN_iff w).1),
    Bool.eq_false_iff.2 (not_isInfinity_of_isFinite h ∘ (isInf_iff w).1)⟩

theorem isNaN_isInf_of_isInfinity {w : Word} (h : IsInfinity w) : isNaN w = false ∧ isInf w = true :=
  ⟨Bool.eq_false_iff.2 (not_isNaN_of_isInfinity h ∘ (isNaN_iff w).1), (isInf_iff w).2 h⟩

theorem isFinite_of_not {w : Word} (hnan : ¬ IsNaN w) (hinf : ¬ IsInfinity w) : IsFinite w := fun hexp =>
  hnan ⟨hexp, fun hfrac => hinf ⟨hexp, hfrac⟩⟩

theorem isNaN_nanOf (free : Word) : IsNaN (nanOf free) := by
  rw [nanOf]
  split
  case isTrue h => exact (isNaN_iff free).1 h
  case isFalse => decide

theorem isInfinity_inf (neg : Bool) : IsInfinity (inf neg) := by cases neg <;> decide

theorem sign_inf (neg : Bool) : sign (inf neg) = neg := sign_ofSign neg (by decide)

theorem sign_zero (neg : Bool) : sign (zero neg) = neg := sign_ofSign neg (by decide)

theorem zero_eq (neg : Bool) : zero neg = if neg then 0x80000000 else 0x00000000 := by cases neg <;> rfl

theorem roundMagnitude_le (num den : Nat) : roundMagnitude num den ≤ infMagnitude := Nat.min_le_right ..

theorem sign_round (neg : Bool) (num den : Nat) : sign (round neg num den) = neg :=
  sign_ofSign neg ((roundMagnitude_le num den).trans_lt (by decide))

/-- A carry and a too large result end at the pattern of an infinity, so rounding gives no NaN. -/
theorem not_isNaN_round (neg : Bool) (num den : Nat) : ¬ IsNaN (round neg num den) := by
  have hle := roundMagnitude_le num den
  unfold infMagnitude at hle
  rw [round, IsNaN, ← exponent_eq, ← fraction_eq, exponent_ofSign neg (by omega), fraction_ofSign neg (by omega)]
  omega

/-- Two words with the same fields are the same word. -/
theorem eq_of_fields {v w : Word} (hsign : sign v = sign w) (hexp : expBits v = expBits w)
    (hfrac : fracBits v = fracBits w) : v = w := by
  rw [← exponent_eq, ← exponent_eq, exponent, exponent] at hexp
  rw [← fraction_eq, ← fraction_eq, fraction, fraction] at hfrac
  rw [sign, sign, BitVec.getLsbD, BitVec.getLsbD, Nat.testBit_eq_decide_div_mod_eq, Nat.testBit_eq_decide_div_mod_eq,
    decide_eq_decide] at hsign
  apply BitVec.eq_of_toNat_eq
  have hv := v.isLt
  have hw := w.isLt
  omega

/-- The words of no units are the two zeros. -/
theorem units_eq_zero_iff (w : Word) : units w = 0 ↔ w = 0x00000000 ∨ w = 0x80000000 := by
  refine ⟨fun hunits => ?_, by rintro (rfl | rfl) <;> decide⟩
  have hexp : exponent w = 0 := by
    by_contra hexp
    rw [units, if_neg hexp] at hunits
    exact absurd hunits (by positivity)
  have hfrac : fraction w = 0 := by rwa [units, if_pos hexp] at hunits
  rw [exponent_eq] at hexp
  rw [fraction_eq] at hfrac
  cases hsign : sign w
  case false => exact .inl (eq_of_fields hsign hexp hfrac)
  case true => exact .inr (eq_of_fields hsign hexp hfrac)

theorem units_ne_zero {w : Word} (hpos : w ≠ 0x00000000) (hneg : w ≠ 0x80000000) : units w ≠ 0 := fun h =>
  ((units_eq_zero_iff w).1 h).elim hpos hneg

/-! ### The sign bit (R221, R224) -/

theorem getLsbD_signMask : ∀ k < 31, (0x80000000 : Word).getLsbD k = false ∧ (0x7FFFFFFF : Word).getLsbD k = true := by
  decide

theorem sign_neg (w : Word) : sign (neg w) = !sign w := by
  rw [sign, neg, BitVec.getLsbD_xor]
  exact Bool.xor_true _

theorem sign_abs (w : Word) : sign (abs w) = false := by
  rw [sign, abs, BitVec.getLsbD_and]
  exact Bool.and_false _

theorem getLsbD_neg (w : Word) {k : Nat} (hk : k < 31) : (neg w).getLsbD k = w.getLsbD k := by
  rw [neg, BitVec.getLsbD_xor, (getLsbD_signMask k hk).1, Bool.xor_false]

theorem getLsbD_abs (w : Word) {k : Nat} (hk : k < 31) : (abs w).getLsbD k = w.getLsbD k := by
  rw [abs, BitVec.getLsbD_and, (getLsbD_signMask k hk).2, Bool.and_true]

theorem expBits_neg (w : Word) : expBits (neg w) = expBits w := by
  rw [expBits, expBits, neg, BitVec.extractLsb'_xor]
  exact congrArg BitVec.toNat (BitVec.xor_zero)

theorem fracBits_neg (w : Word) : fracBits (neg w) = fracBits w := by
  rw [fracBits, fracBits, neg, BitVec.extractLsb'_xor]
  exact congrArg BitVec.toNat (BitVec.xor_zero)

theorem floatValue_neg (w : Word) : floatValue (neg w) = -floatValue w := by
  have hsign : (neg w).getLsbD 31 = !w.getLsbD 31 := sign_neg w
  rw [floatValue, floatValue, hsign, expBits_neg, fracBits_neg, ← neg_mul]
  cases w.getLsbD 31 <;> simp

/-! ### Sums (R216, R217) -/

section

variable (free : Word) {a b : Word}

theorem addOr_of_isNaN (h : IsNaN a ∨ IsNaN b) : addOr free a b = nanOf free := by
  rw [addOr, if_pos (by simpa only [Bool.or_eq_true, isNaN_iff] using h)]

theorem addOr_of_isInfinity_left (ha : IsInfinity a) (hb : ¬ IsNaN b) :
    addOr free a b = if IsInfinity b ∧ sign a ≠ sign b then nanOf free else a := by
  simp [addOr, isNaN_isInf_of_isInfinity ha, isNaN_iff, isInf_iff, hb]

theorem addOr_of_isInfinity_right (ha : IsFinite a) (hb : IsInfinity b) : addOr free a b = b := by
  simp [addOr, isNaN_isInf_of_isFinite ha, isNaN_isInf_of_isInfinity hb]

theorem addOr_of_isFinite (ha : IsFinite a) (hb : IsFinite b) :
    addOr free a b = if value a + value b = 0 then zero (sign a && sign b)
      else round (decide (value a + value b < 0)) (value a + value b).natAbs 1 := by
  simp [addOr, isNaN_isInf_of_isFinite ha, isNaN_isInf_of_isFinite hb]

theorem floatValue_add (a b : Word) : floatValue a + floatValue b = ((value a + value b : Int) : ℚ) / 2 ^ 149 := by
  rw [floatValue_eq, floatValue_eq, Int.cast_add, add_div]

theorem floatValue_add_eq_zero_iff (a b : Word) : floatValue a + floatValue b = 0 ↔ value a + value b = 0 := by
  rw [floatValue_add, div_eq_zero_iff, or_iff_left (by positivity), Int.cast_eq_zero]

/-- A whole number of units is its size with its sign. -/
theorem signFactor_mul_natAbs (n : Int) : signFactor (decide (n < 0)) * (n.natAbs : ℚ) = n := by
  rw [signFactor, Nat.cast_natAbs]
  rcases lt_or_ge n 0 with hn | hn
  · rw [decide_eq_true hn, if_pos rfl, abs_of_neg hn, Int.cast_neg, neg_one_mul, neg_neg]
  · rw [decide_eq_false hn.not_gt, if_neg Bool.false_ne_true, abs_of_nonneg hn, one_mul]

/-- Both zeros are nearest to 0. -/
theorem zero_roundsTo (neg : Bool) : RoundsTo 0 (zero neg) := by
  have hround := round_roundsTo neg 0 Nat.one_pos
  have hzero : roundMagnitude 0 1 = 0 := by decide
  rwa [round, hzero, Nat.cast_zero, zero_div, zero_div, mul_zero] at hround

theorem addOr_roundsTo (ha : IsFinite a) (hb : IsFinite b) : RoundsTo (floatValue a + floatValue b) (addOr free a b) := by
  rw [addOr_of_isFinite free ha hb]
  split
  case isTrue hsum =>
    rw [(floatValue_add_eq_zero_iff a b).2 hsum]
    exact zero_roundsTo _
  case isFalse =>
    have hround := round_roundsTo (decide (value a + value b < 0)) (value a + value b).natAbs Nat.one_pos
    rwa [Nat.cast_one, div_one, ← mul_div_assoc, signFactor_mul_natAbs, ← floatValue_add] at hround

/-- Two negative floats whose sum is 0 are both -0.0. -/
theorem both_signs_iff (hsum : value a + value b = 0) :
    (sign a && sign b) = true ↔ a = 0x80000000 ∧ b = 0x80000000 := by
  rw [Bool.and_eq_true]
  refine ⟨fun ⟨ha, hb⟩ => ?_, by rintro ⟨rfl, rfl⟩; decide⟩
  rw [value, value, if_pos ha, if_pos hb] at hsum
  have hneg {w : Word} (hw : sign w = true) (hunits : units w = 0) : w = 0x80000000 :=
    ((units_eq_zero_iff w).1 hunits).resolve_left fun h => by
      rw [h] at hw
      exact absurd hw (by decide)
  exact ⟨hneg ha (by omega), hneg hb (by omega)⟩

theorem addOr_of_sum_eq_zero (ha : IsFinite a) (hb : IsFinite b) (hsum : floatValue a + floatValue b = 0) :
    addOr free a b = if a = 0x80000000 ∧ b = 0x80000000 then 0x80000000 else 0x00000000 := by
  have hvalue := (floatValue_add_eq_zero_iff a b).1 hsum
  rw [addOr_of_isFinite free ha hb, if_pos hvalue, zero_eq]
  simp only [both_signs_iff hvalue]

theorem isNaN_addOr_of_opposite (ha : IsInfinity a) (hb : IsInfinity b) (hne : a ≠ b) : IsNaN (addOr free a b) := by
  have hsign : sign a ≠ sign b := fun h => hne (eq_of_fields h (ha.1.trans hb.1.symm) (ha.2.trans hb.2.symm))
  rw [addOr_of_isInfinity_left free ha (not_isNaN_of_isInfinity hb), if_pos ⟨hb, hsign⟩]
  exact isNaN_nanOf free

theorem addOr_eq_left (ha : IsInfinity a) (hb : IsFinite b ∨ b = a) : addOr free a b = a := by
  rcases hb with hb | rfl
  · rw [addOr_of_isInfinity_left free ha (not_isNaN_of_isFinite hb),
      if_neg fun h => not_isInfinity_of_isFinite hb h.1]
  · rw [addOr_of_isInfinity_left free ha (not_isNaN_of_isInfinity ha), if_neg fun h => h.2 rfl]

end

/-! ### Products (R218) -/

section

variable (a b : Word)

/-- What a product can be, and of which operands. -/
theorem mul_cases :
    (IsNaN (mul a b) ∧ (IsNaN a ∨ IsNaN b ∨ (IsInfinity a ∧ units b = 0) ∨ (units a = 0 ∧ IsInfinity b))) ∨
    (mul a b = inf (sign a != sign b) ∧ (IsInfinity a ∨ IsInfinity b) ∧ ¬ IsNaN a ∧ ¬ IsNaN b ∧ units a ≠ 0 ∧
      units b ≠ 0) ∨
    (mul a b = round (sign a != sign b) (units a * units b) unit ∧ IsFinite a ∧ IsFinite b) := by
  have hinfUnits {w : Word} (h : IsInfinity w) : units w ≠ 0 := by
    rw [units_inf w h]
    decide
  simp only [mul, Bool.or_eq_true, decide_eq_true_eq, isNaN_iff, isInf_iff]
  split_ifs with hnan hinf hzero
  · exact .inl ⟨isNaN_nanOf _, hnan.imp_right .inl⟩
  · refine .inl ⟨isNaN_nanOf _, .inr (.inr ?_)⟩
    rcases hinf with ha | hb
    · exact .inl ⟨ha, hzero.resolve_left (hinfUnits ha)⟩
    · exact .inr ⟨hzero.resolve_right (hinfUnits hb), hb⟩
  · rw [not_or] at hnan hzero
    exact .inr (.inl ⟨rfl, hinf, hnan.1, hnan.2, hzero⟩)
  · rw [not_or] at hnan hinf
    exact .inr (.inr ⟨rfl, isFinite_of_not hnan.1 hinf.1, isFinite_of_not hnan.2 hinf.2⟩)

variable {a b}

theorem isNaN_mul_iff :
    IsNaN (mul a b) ↔ IsNaN a ∨ IsNaN b ∨ (IsInfinity a ∧ units b = 0) ∨ (units a = 0 ∧ IsInfinity b) := by
  obtain ⟨hnan, hoperands⟩ | ⟨hmul, -, ha, hb, hza, hzb⟩ | ⟨hmul, ha, hb⟩ := mul_cases a b
  · exact iff_of_true hnan hoperands
  · exact iff_of_false (hmul ▸ not_isNaN_of_isInfinity (isInfinity_inf _)) (by tauto)
  · have := not_isInfinity_of_isFinite ha
    have := not_isInfinity_of_isFinite hb
    have := not_isNaN_of_isFinite ha
    have := not_isNaN_of_isFinite hb
    exact iff_of_false (hmul ▸ not_isNaN_round _ _ _) (by tauto)

theorem sign_mul (h : ¬ IsNaN (mul a b)) : sign (mul a b) = (sign a != sign b) := by
  obtain ⟨hnan, -⟩ | ⟨hmul, -⟩ | ⟨hmul, -⟩ := mul_cases a b
  · exact absurd hnan h
  · rw [hmul, sign_inf]
  · rw [hmul, sign_round]

theorem mul_of_isInfinity (h : IsInfinity a ∨ IsInfinity b) : IsInfinity (mul a b) ∨ IsNaN (mul a b) := by
  obtain ⟨hnan, -⟩ | ⟨hmul, -⟩ | ⟨-, ha, hb⟩ := mul_cases a b
  · exact .inr hnan
  · exact .inl (hmul ▸ isInfinity_inf _)
  · exact absurd h (not_or.2 ⟨not_isInfinity_of_isFinite ha, not_isInfinity_of_isFinite hb⟩)

theorem mul_of_isFinite (ha : IsFinite a) (hb : IsFinite b) :
    mul a b = round (sign a != sign b) (units a * units b) unit := by
  simp [mul, isNaN_isInf_of_isFinite ha, isNaN_isInf_of_isFinite hb]

theorem mul_roundsTo (ha : IsFinite a) (hb : IsFinite b) : RoundsTo (floatValue a * floatValue b) (mul a b) := by
  have hround := round_roundsTo (sign a != sign b) (units a * units b) (den := unit) (by decide)
  rw [mul_of_isFinite ha hb, floatValue_eq_units, floatValue_eq_units]
  convert hround using 1
  rw [← signFactor_mul_signFactor, unit]
  push_cast
  ring

end

/-! ### Quotients (R219) -/

section

variable {a b : Word}

theorem isNaN_div_of_isNaN (h : IsNaN a ∨ IsNaN b) : IsNaN (div a b) := by
  simp only [div, Bool.or_eq_true, isNaN_iff, if_pos h]
  exact isNaN_nanOf _

theorem div_of_isInfinity_left (ha : IsInfinity a) (hb : ¬ IsNaN b) :
    div a b = if IsInfinity b then nanOf (Config.nanBits .div a b) else inf (sign a != sign b) := by
  simp [div, isNaN_isInf_of_isInfinity ha, isNaN_iff, isInf_iff, hb]

theorem div_of_isInfinity_right (ha : IsFinite a) (hb : IsInfinity b) : div a b = zero (sign a != sign b) := by
  simp [div, isNaN_isInf_of_isFinite ha, isNaN_isInf_of_isInfinity hb]

theorem div_of_isFinite (ha : IsFinite a) (hb : IsFinite b) :
    div a b = round (sign a != sign b) (units a * unit) (units b) := by
  simp [div, isNaN_isInf_of_isFinite ha, isNaN_isInf_of_isFinite hb]

theorem sign_div (h : ¬ IsNaN (div a b)) : sign (div a b) = (sign a != sign b) := by
  simp only [div] at h ⊢
  split_ifs at h ⊢
  · exact absurd (isNaN_nanOf _) h
  · exact absurd (isNaN_nanOf _) h
  · exact sign_inf _
  · exact sign_zero _
  · exact sign_round ..

theorem floatValue_div (a b : Word) :
    floatValue a / floatValue b = signFactor (sign a != sign b) * ((units a : ℚ) / units b) := by
  have hinv : signFactor (sign b) = (signFactor (sign b))⁻¹ := eq_inv_of_mul_eq_one_left (signFactor_mul_self _)
  rw [floatValue_eq_units, floatValue_eq_units, mul_div_mul_comm, div_div_div_cancel_right₀ (by positivity),
    div_eq_mul_inv (signFactor _), ← hinv, signFactor_mul_signFactor]

theorem div_roundsTo (ha : IsFinite a) (hb : IsFinite b) (hunits : units b ≠ 0) :
    RoundsTo (floatValue a / floatValue b) (div a b) := by
  have hround := round_roundsTo (sign a != sign b) (units a * unit) (Nat.pos_of_ne_zero hunits)
  have hscale : ((units a * unit : Nat) : ℚ) / units b / 2 ^ 149 = units a / units b := by
    rw [unit, Nat.cast_mul, Nat.cast_pow, Nat.cast_ofNat, mul_div_right_comm, mul_div_cancel_right₀ _ (by positivity)]
  rwa [hscale, ← floatValue_div, ← div_of_isFinite ha hb] at hround

end

/-! ### Exact results

A whole number of units that is a significand of 24 bits above an exponent is the size of a float, and rounding keeps
it. -/

/-- A number of units that a finite float can have. -/
def Representable (n : Nat) : Prop := ∃ c k, n = c * 2 ^ k ∧ c < 2 ^ 24 ∧ k ≤ 253

theorem representable_units {w : Word} (h : IsFinite w) : Representable (units w) := by
  have hfrac : fraction w < 2 ^ 23 := Nat.mod_lt _ (by decide)
  have hexp : exponent w < 256 := Nat.mod_lt _ (by decide)
  rw [IsFinite, ← exponent_eq] at h
  unfold units
  split
  case isTrue => exact ⟨fraction w, 0, (Nat.mul_one _).symm, by omega, by omega⟩
  case isFalse => exact ⟨2 ^ 23 + fraction w, exponent w - 1, rfl, by omega, by omega⟩

/-- A remainder needs no bit below the lower of the two last places, and no more bits than the operand that has it. -/
theorem Representable.mod {m n : Nat} (hm : Representable m) (hn : Representable n) (hpos : n ≠ 0) :
    Representable (m % n) := by
  obtain ⟨c, j, rfl, hc, hj⟩ := hm
  obtain ⟨d, k, rfl, hd, hk⟩ := hn
  have hd0 : 0 < d := Nat.pos_of_ne_zero (left_ne_zero_of_mul hpos)
  rcases le_total j k with hjk | hjk
  · refine ⟨c % (d * 2 ^ (k - j)), j, ?_, (Nat.mod_le ..).trans_lt hc, hj⟩
    rw [← Nat.mul_mod_mul_right, mul_assoc, ← pow_add, Nat.sub_add_cancel hjk]
  · refine ⟨c * 2 ^ (j - k) % d, k, ?_, (Nat.mod_lt _ hd0).trans hd, hk⟩
    rw [← Nat.mul_mod_mul_right, mul_assoc, ← pow_add, Nat.sub_add_cancel hjk]

/-- A whole number is its own nearest whole number. -/
theorem NearestNat.eq_of_cast {n q m : Nat} (h : NearestNat (n : ℚ) q m) : m = n := by
  have hlower : q ≤ n := by exact_mod_cast h.lower
  have hupper : n < q + 1 := by exact_mod_cast h.upper
  obtain rfl : q = n := by omega
  rcases h.nearest with ⟨hm, -⟩ | ⟨-, hhalf⟩
  · exact hm
  · linarith

/-- The last place kept of a representable number is one that it has. -/
theorem Rounded.exponent_le {c k j q m : Nat} (hc : c < 2 ^ 24) (h : Rounded ((c * 2 ^ k : Nat) : ℚ) j q m) :
    j ≤ k := by
  rcases h.normal with hq | rfl
  · have hlower : q * 2 ^ j ≤ c * 2 ^ k := by exact_mod_cast (le_div_iff₀ (by positivity)).1 h.lower
    have hpow : 2 ^ (23 + j) < 2 ^ (24 + k) := by
      calc 2 ^ (23 + j) = 2 ^ 23 * 2 ^ j := pow_add ..
        _ ≤ c * 2 ^ k := (Nat.mul_le_mul_right _ hq).trans hlower
        _ < 2 ^ 24 * 2 ^ k := Nat.mul_lt_mul_of_pos_right hc (by positivity)
        _ = 2 ^ (24 + k) := (pow_add ..).symm
    have := (Nat.pow_lt_pow_iff_right (by decide)).1 hpow
    omega
  · exact k.zero_le

theorem Representable.lt_limit {n : Nat} (h : Representable n) : (n : ℚ) < (2 ^ 25 - 1) * 2 ^ 252 := by
  obtain ⟨c, k, rfl, hc, hk⟩ := h
  have hle : c * 2 ^ k ≤ (2 ^ 24 - 1) * 2 ^ 253 :=
    Nat.mul_le_mul (Nat.le_sub_one_of_lt hc) (Nat.pow_le_pow_right (by decide) hk)
  calc ((c * 2 ^ k : Nat) : ℚ) ≤ ((2 ^ 24 - 1) * 2 ^ 253 : Nat) := by exact_mod_cast hle
    _ < (2 ^ 25 - 1) * 2 ^ 252 := by norm_num

theorem round_exact (neg : Bool) {n : Nat} (hn : Representable n) :
    IsFinite (round neg n 1) ∧ units (round neg n 1) = n := by
  obtain ⟨j, q, m, hmag, h⟩ := roundMagnitude_spec n Nat.one_pos
  rw [Nat.cast_one, div_one] at h
  have hfinite := h.lt_infMagnitude_iff.2 hn.lt_limit
  rw [round, hmag, min_eq_left hfinite.le]
  refine ⟨isFinite_ofSign neg hfinite, ?_⟩
  rw [units_ofSign neg h.normal_nearest h.nearest_le hfinite]
  obtain ⟨c, k, rfl, hc, -⟩ := hn
  have hsplit : c * 2 ^ k = c * 2 ^ (k - j) * 2 ^ j := by
    rw [mul_assoc, ← pow_add, Nat.sub_add_cancel (h.exponent_le hc)]
  have hnear := h.toNearestNat
  rw [hsplit, Nat.cast_mul, Nat.cast_pow, Nat.cast_ofNat, mul_div_cancel_right₀ _ (by positivity)] at hnear
  rw [hsplit, hnear.eq_of_cast]

/-! ### Remainders (R220) -/

section

variable {a b : Word}

theorem isNaN_fmod (h : IsNaN a ∨ IsNaN b ∨ IsInfinity a) : IsNaN (fmod a b) := by
  simp only [fmod, Bool.or_eq_true, isNaN_iff, isInf_iff, or_assoc, if_pos h]
  exact isNaN_nanOf _

theorem fmod_of_isInfinity_right (ha : IsFinite a) (hb : IsInfinity b) : fmod a b = a := by
  simp [fmod, isNaN_isInf_of_isFinite ha, isNaN_isInf_of_isInfinity hb]

theorem fmod_of_isFinite (ha : IsFinite a) (hb : IsFinite b) : fmod a b = round (sign a) (units a % units b) 1 := by
  simp [fmod, isNaN_isInf_of_isFinite ha, isNaN_isInf_of_isFinite hb]

/-- The remainder is a float, so nothing is rounded. -/
theorem fmod_exact (ha : IsFinite a) (hb : IsFinite b) (hunits : units b ≠ 0) :
    IsFinite (fmod a b) ∧ sign (fmod a b) = sign a ∧ units (fmod a b) = units a % units b := by
  obtain ⟨hfinite, hexact⟩ := round_exact (sign a) ((representable_units ha).mod (representable_units hb) hunits)
  rw [fmod_of_isFinite ha hb]
  exact ⟨hfinite, sign_round .., hexact⟩

/-- The quotient rounded toward zero. -/
def truncQuotient (a b : Word) : Int :=
  if sign a != sign b then -((units a / units b : Nat) : Int) else (units a / units b : Nat)

theorem cast_truncQuotient (a b : Word) :
    (truncQuotient a b : ℚ) = signFactor (sign a != sign b) * (units a / units b : Nat) := by
  rw [truncQuotient, signFactor]
  split
  · rw [Int.cast_neg, Int.cast_natCast, neg_one_mul]
  · rw [Int.cast_natCast, one_mul]

/-- What makes `truncQuotient` the quotient rounded toward zero. -/
theorem truncQuotient_spec (hunits : units b ≠ 0) :
    |(truncQuotient a b : ℚ)| ≤ |floatValue a / floatValue b| ∧
      |floatValue a / floatValue b| < |(truncQuotient a b : ℚ)| + 1 ∧
      0 ≤ (truncQuotient a b : ℚ) * (floatValue a / floatValue b) := by
  have hdiv := nearestNat_div (units a) (Nat.pos_of_ne_zero hunits)
  have hsize : (0 : ℚ) ≤ units a / units b := by positivity
  rw [cast_truncQuotient, floatValue_div, abs_mul, abs_mul, abs_signFactor, one_mul, one_mul, abs_of_nonneg hsize,
    Nat.abs_cast, mul_mul_mul_comm, signFactor_mul_self, one_mul]
  exact ⟨hdiv.lower, hdiv.upper, by positivity⟩

theorem floatValue_fmod (ha : IsFinite a) (hb : IsFinite b) (hunits : units b ≠ 0) :
    floatValue (fmod a b) = floatValue a - floatValue b * truncQuotient a b := by
  obtain ⟨-, hsign, hmod⟩ := fmod_exact ha hb hunits
  have hfactor : signFactor (sign b) * signFactor (sign a != sign b) = signFactor (sign a) := by
    rw [signFactor_mul_signFactor, bne_comm, Bool.bne_assoc, bne_self_eq_false, Bool.bne_false]
  have hdivision : (units a : ℚ) = units b * (units a / units b : Nat) + (units a % units b : Nat) := by
    exact_mod_cast (Nat.div_add_mod ..).symm
  rw [floatValue_eq_units, hsign, hmod, floatValue_eq_units a, floatValue_eq_units b, cast_truncQuotient,
    mul_mul_mul_comm, hfactor, hdivision]
  ring

end

end F32

/-! ### The statements -/

/-- Settles O49: both sums are `addOr`, FSUB's of the first operand and the second with its sign bit inverted, and the
products are `mul`; each clause is a rule of these. -/
theorem floatAddSubMul : Obligations.FloatAddSubMul := by
  intro s r1 a sums multiplies
  have hsums {i : Instr} {f : Word → Word → Word} {b c : Word} (free : Word) (hi : exec i s = updateWith f r1 b s)
      (hf : f a b = F32.addOr free a c) : sums i (floatValue a + floatValue c) c :=
    ⟨F32.addOr free a c, hf ▸ writes_of_updateWith hi,
      fun ha hc => ⟨F32.addOr_roundsTo free ha hc, F32.addOr_of_sum_eq_zero free ha hc⟩,
      fun hnan => F32.addOr_of_isNaN free hnan ▸ F32.isNaN_nanOf free,
      F32.isNaN_addOr_of_opposite free, F32.addOr_eq_left free, fun hc ha => F32.addOr_of_isInfinity_right free ha hc⟩
  have hsub {i : Instr} {b : Word} (hi : exec i s = updateWith F32.sub r1 b s) :
      sums i (floatValue a - floatValue b) (b ^^^ 0x80000000) := by
    rw [sub_eq_add_neg, ← F32.floatValue_neg]
    exact hsums _ hi rfl
  have hmul {i : Instr} {b : Word} (hi : exec i s = updateWith F32.mul r1 b s) : multiplies i b := by
    refine ⟨F32.mul a b, writes_of_updateWith hi, F32.mul_roundsTo, fun hnan => ?nan, fun hzero => ?infZero, F32.sign_mul,
      F32.mul_of_isInfinity, fun ha hb ha0 ha0' hb0 hb0' => ?nonzero⟩ <;> rw [F32.isNaN_mul_iff]
    case nan => exact hnan.imp_right .inl
    case infZero =>
      rw [← F32.units_eq_zero_iff, ← F32.units_eq_zero_iff] at hzero
      exact .inr (.inr hzero)
    case nonzero =>
      have hza := F32.units_ne_zero ha0 ha0'
      have hzb := F32.units_ne_zero hb0 hb0'
      exact not_or.2 ⟨ha, not_or.2 ⟨hb, not_or.2 ⟨fun h => hzb h.2, fun h => hza h.1⟩⟩⟩
  exact ⟨fun b => ⟨hsums _ rfl rfl, hsub rfl, hmul rfl⟩, fun r2 => ⟨hsums _ rfl rfl, hsub rfl, hmul rfl⟩⟩

/-- Settles O50: a divisor of some units raises no error, and each clause is a rule of `div` or of `fmod`. -/
theorem floatDivision : Obligations.FloatDivision := by
  intro s r1 a divides
  have hdivides {quo rem : Instr} {b : Word}
      (hquo : exec quo s = updateUnless floatDivisorZero .divisionError F32.div r1 b s)
      (hrem : exec rem s = updateUnless floatDivisorZero .divisionError F32.fmod r1 b s) : divides quo rem b := by
    intro hb0 hb0'
    have hunits := F32.units_ne_zero hb0 hb0'
    have hok : floatDivisorZero a b = false :=
      Bool.eq_false_iff.2 fun h => ((F32.isZero_iff b).1 h).elim hb0 hb0'
    refine ⟨F32.div a b, F32.fmod a b, writes_of_updateUnless hquo hok, writes_of_updateUnless hrem hok,
      fun ha hb => ?finite, fun hnan => ⟨F32.isNaN_div_of_isNaN hnan, F32.isNaN_fmod (hnan.imp_right .inl)⟩, F32.sign_div,
      fun ha => ⟨F32.isNaN_fmod (.inr (.inr ha)), fun hb => ?infByFinite, fun hb => ?infByInf⟩,
      fun hb ha => ⟨F32.fmod_of_isInfinity_right ha hb, ?finiteByInf⟩⟩
    case finite =>
      obtain ⟨hfinite, hsign, -⟩ := F32.fmod_exact ha hb hunits
      exact ⟨F32.div_roundsTo ha hb hunits, hfinite, hsign, F32.truncQuotient a b, F32.floatValue_fmod ha hb hunits,
        F32.truncQuotient_spec hunits⟩
    case infByFinite =>
      rw [F32.div_of_isInfinity_left ha (F32.not_isNaN_of_isFinite hb), if_neg (F32.not_isInfinity_of_isFinite hb)]
      exact F32.isInfinity_inf _
    case infByInf =>
      rw [F32.div_of_isInfinity_left ha (F32.not_isNaN_of_isInfinity hb), if_pos hb]
      exact F32.isNaN_nanOf _
    case finiteByInf =>
      rw [F32.div_of_isInfinity_right ha hb, F32.zero_eq]
      exact (ite_eq_or_eq ..).symm
  exact ⟨fun b => hdivides rfl rfl, fun r2 => hdivides rfl rfl⟩

/-- The common shape of FMIN and FMAX: the second operand is written where it is chosen, else the first. -/
theorem writes_of_choice {i : Instr} {s : State} {r1 : Reg} {b : Word} {choose : Word → Word → Bool} {p : Prop}
    (hi : exec i s = updateWith (fun a b => if choose a b then b else a) r1 b s)
    (hchoose : choose (s.reg r1) b = true ↔ p) : (p → Writes i s r1 b) ∧ (¬ p → Writes i s r1 (s.reg r1)) := by
  have hwrites := writes_of_updateWith hi
  refine ⟨fun hp => ?_, fun hp => ?_⟩
  · rwa [if_pos (hchoose.2 hp)] at hwrites
  · rwa [if_neg (hp ∘ hchoose.1)] at hwrites

/-- Settles O52: FMIN chooses by `b < a`, FMAX by `b > a`, which are the relations on extended values. -/
theorem floatMinMax : Obligations.FloatMinMax := by
  intro s r1 ordered second
  have hmin {i : Instr} {b : Word} (hi : exec i s = updateWith F32.min r1 b s) :
      second i (ordered b ∧ extendedValue b < extendedValue (s.reg r1)) b :=
    writes_of_choice (choose := fun x y => F32.lt y x) hi
      ((F32.lt_iff b _).trans (and_left_comm.trans and_assoc.symm))
  have hmax {i : Instr} {b : Word} (hi : exec i s = updateWith F32.max r1 b s) :
      second i (ordered b ∧ extendedValue b > extendedValue (s.reg r1)) b :=
    writes_of_choice (choose := fun x y => F32.gt y x) hi
      ((F32.gt_iff b _).trans (and_left_comm.trans and_assoc.symm))
  exact ⟨fun b => ⟨hmin rfl, hmax rfl⟩, fun r2 => ⟨hmin rfl, hmax rfl⟩⟩

/-- Settles O51: FSGN writes `neg`, which flips bit 31, FABS `abs`, which clears it, and both keep the bits below. -/
theorem floatSignBit : Obligations.FloatSignBit := fun s r1 =>
  ⟨F32.neg (s.reg r1), F32.abs (s.reg r1), writes_of_updateReg rfl, writes_of_updateReg rfl, F32.sign_neg _,
    F32.sign_abs _, fun _ hk => ⟨F32.getLsbD_neg _ hk, F32.getLsbD_abs _ hk⟩⟩

end Sys2Proof.Machine

/-! Exceptions: the flags, the three signals, and the errors of the buses and of the stack
(spec/60_exceptions.md R250 to R256, R262 to R271, R277). -/

namespace Sys2Proof.Machine

/-! ### The two control flags -/

/-- An instruction that starts with both flags clear leaves one of them clear, since no instruction sets both (R32). -/
theorem exec_not_both_flags {i : Instr} {s t : State} (hhalt : s.halt = false) (hwait : s.wait = false)
    (h : exec i s = .next t) : ¬ (t.halt = true ∧ t.wait = true) := by
  rintro ⟨hth, htw⟩
  by_cases hi : i = .hlt
  · have hne : i ≠ .wait := by simp [hi]
    simp [exec_wait hne h, hwait] at htw
  · simp [exec_halt hi h, hhalt] at hth

/-- Settles O15: reset and frame clear a flag, an ignored cycle signal keeps both, and a running cycle starts with both
clear. -/
theorem stepKeepsFlagsExclusive : Obligations.StepKeepsFlagsExclusive := by
  intro s t hs h
  obtain ⟨-, rfl⟩ | ⟨-, rfl⟩ | ⟨-, -, rfl⟩ | ⟨-, hrun, hx⟩ := step_cases h
  · simp
  · simp
  · exact hs
  · obtain ⟨hhalt, hwait⟩ := State.stopped_eq_false.1 hrun
    obtain ⟨hth, htw⟩ | ⟨w, v, i, u, -, -, huh, huw, hxu⟩ := fetch_flags hx
    · rw [hth, htw]
      exact hs
    · exact exec_not_both_flags (huh.trans hhalt) (huw.trans hwait) hxu

/-! ### What no instruction changes -/

theorem keeps_ir_imm (i : Instr) (x y : Word) : Keeps i fun t => t.ir = x ∧ t.imm = y where
  setReg _ _ _ h := h
  setPc _ _ h := h
  busRead s a h := by rwa [s.busRead_ir a, s.busRead_imm a]
  busWrite s a v h := by rwa [s.busWrite_ir a v, s.busWrite_imm a v]
  ask _ _ h := h
  setHalt _ _ h := h
  setWait _ _ h := h

/-- Settles O19: every operation goes on or takes an error, none writes `IR` or `Imm`, and requests take no signal. -/
theorem execAlwaysAnswersNext : Obligations.ExecAlwaysAnswersNext := by
  intro i s
  obtain ⟨t, ht⟩ := exec_isNext i s
  obtain ⟨hir, himm⟩ := (keeps_ir_imm i s.ir s.imm).exec ⟨rfl, rfl⟩ t ht
  exact ⟨t, ht, hir, himm, (exec_exchanged i s t ht).signals⟩

/-! ### The three signals -/

/-- Settles O8: a cycle signal that finds a flag set is only taken. -/
theorem cycleIgnoredWhileFlagSet : Obligations.CycleIgnoredWhileFlagSet := by
  intro s hq hflag
  have hstopped : s.stopped = true := by simpa [State.stopped] using hflag
  exact step_cycle_stopped hq hstopped

/-- Settles O9: the frame response changes Wait in the state that has taken the signal. -/
theorem frameSignalClearsWait : Obligations.FrameSignalClearsWait := fun _ hq => step_frame hq

/-- Settles O10: the reset response in the state that has taken the signal; R0 to R13 are neither BP nor SP. -/
theorem resetSignalResponse : Obligations.ResetSignalResponse := by
  intro s hq
  refine ⟨_, step_reset hq, rfl, rfl, fun q hle => ?_, State.reg_resetSignal _ 14, State.reg_resetSignal _ 15, rfl, rfl,
    rfl, fun _ => rfl, rfl, rfl, rfl⟩
  have hne : ¬ (q = BP ∨ q = SP) := by
    rintro (rfl | rfl) <;> simp [BP, SP] at hle
  rw [State.reg_resetSignal, if_neg hne]

/-! ### The hardware error response -/

/-- Settles O56: the response to an error, seen from the state it is taken in. -/
theorem hardwareErrorResponse : Obligations.HardwareErrorResponse := fun s e =>
  ⟨s.raise e, rfl, errorTaken_raise e (fun _ => rfl) rfl ⟨rfl, rfl, rfl, rfl⟩, fun _ => rfl, rfl, rfl, rfl⟩

theorem raises_of_exec_eq {i : Instr} {s : State} {e : HardwareError} (hi : exec i s = raise e s) :
    Raises i s e := by
  rw [Raises, hi]
  exact hardwareErrorResponse s e

/-- The response writes SP last, so that what SP was before it is lost (R262). -/
theorem State.raise_setReg_SP (s : State) (v : Word) (e : HardwareError) :
    (s.setReg SP v).raise e = s.raise e := by
  refine State.ext_reg (fun q => ?_) rfl rfl rfl rfl rfl rfl rfl rfl rfl
  rw [State.reg_raise, State.reg_raise]
  by_cases hq : q = SP
  · subst hq
    rfl
  · rw [State.reg_setReg_ne _ _ hq]
    rfl

/-- The response, seen from a state that may have another SP. -/
theorem errorTaken_raise_but_SP {s u : State} (e : HardwareError) (hreg : SameRegsBut [SP] s u) (hpc : u.pc = s.pc)
    (hi : SameInternals s u) : ErrorTaken e s (u.raise e) := by
  rw [← u.raise_setReg_SP (s.reg SP)]
  refine errorTaken_raise e (fun q => ?_) hpc hi
  by_cases hq : q = SP
  · rw [hq, State.reg_setReg_same]
  · rw [State.reg_setReg_ne _ _ hq, hreg q (List.mem_singleton.not.2 hq)]

/-! ### A refused request -/

/-- A read request is recorded with its answer (R69). -/
theorem State.busRead_asked {s : State} {a : Word} {x : Option Word} (h : (s.busRead a).1 = x) :
    Asked (.memRead a) x s (s.busRead a).2 :=
  ⟨s.busRead_signals a, by rw [s.busRead_history, h]⟩

theorem State.busWrite_asked_none {s : State} {a v : Word} (h : (s.busWrite a v).1 = false) :
    Asked (.memWrite a v) none s (s.busWrite a v).2 := by
  obtain ⟨x, hx, hhistory⟩ := s.busWrite_history a v
  obtain rfl : x = none := by simpa [h] using hx
  exact ⟨s.busWrite_signals a v, hhistory⟩

section

variable {i : Instr} {s : State}

/-- The common shape of the refusals: nothing but the one request came before the error (R264). -/
theorem completes_errorTaken_asked {t : State} {e : HardwareError} {q : Request} {x : Option Word}
    (h : OnlyRequested s t) (ha : Asked q x s t) (hi : exec i s = .next (t.raise e)) :
    Completes i s fun u => ErrorTaken e s u ∧ SameMemory s u ∧ Asked q x s u := by
  obtain ⟨u, hu, he, hm⟩ := completes_errorTaken h hi
  cases hu.symm.trans hi
  exact ⟨_, hi, he, hm, ha⟩

theorem completes_of_load_refused {r1 : Reg} {a : Word} (hi : exec i s = load r1 a s) (h : (s.busRead a).1 = none) :
    Completes i s fun u =>
      ErrorTaken .invalidMemoryRead s u ∧ SameMemory s u ∧ Asked (.memRead a) none s u :=
  completes_errorTaken_asked (onlyRequested_busRead s a) (State.busRead_asked h) (hi.trans (memRead_failed a s _ h))

theorem completes_of_store_refused {r2 : Reg} {a : Word} (hi : exec i s = store a r2 s)
    (h : (s.busWrite a (s.reg r2)).1 = false) :
    Completes i s fun u =>
      ErrorTaken .invalidMemoryWrite s u ∧ SameMemory s u ∧ Asked (.memWrite a (s.reg r2)) none s u :=
  completes_errorTaken_asked (onlyRequested_busWrite_failed h) (State.busWrite_asked_none h)
    (hi.trans (memWrite_failed a _ s .next h))

theorem onlyRequested_ask (s : State) (q : Request) : OnlyRequested s (s.ask q).2 :=
  ⟨s.ask_reg q, s.ask_pc q, ⟨s.ask_ir q, s.ask_imm q, s.ask_halt q, s.ask_wait q⟩, s.ask_mem q⟩

theorem completes_of_portWrite_refused {port : Nat} {v : Word} (hi : exec i s = portWrite port v s .next)
    (h : s.answerTo (.portWrite port v) = none) :
    Completes i s fun u =>
      ErrorTaken .invalidPortWrite s u ∧ SameMemory s u ∧ Asked (.portWrite port v) none s u :=
  completes_errorTaken_asked (onlyRequested_ask s _) (State.ask_asked h) (hi.trans (portWrite_failed port v s .next h))

end

/-- Settles O58: the loads, the stores and the two forms of `OUT` each have one shape. -/
theorem busErrorsOfMoves : Obligations.BusErrorsOfMoves := by
  intro s r1 r2 imm port raises sum
  have hsum (r : Reg) : sum r = s.sumAddress r imm := (s.sumAddress_eq_ofNat r imm).symm
  rw [hsum, hsum]
  refine ⟨completes_of_load_refused (exec_movRegMemImm_eq ..), completes_of_load_refused (exec_movRegMemReg_eq ..),
    completes_of_load_refused (exec_movRegMemRegImm_eq ..), completes_of_store_refused (exec_movMemImmReg_eq ..),
    completes_of_store_refused (exec_movMemRegReg_eq ..), completes_of_store_refused (exec_movMemRegImmReg_eq ..),
    fun h => ?inPort, completes_of_portWrite_refused (exec_outImm_eq ..),
    completes_of_portWrite_refused (exec_outReg_eq ..)⟩
  case inPort =>
    exact completes_errorTaken_asked (onlyRequested_ask s _) (State.ask_asked h)
      ((exec_inPort_eq s r1 port).trans (portRead_failed port s _ h))

/-! ### The stack -/

section

variable {i : Instr} {s : State}

theorem completes_of_push_refused {v : Word} {rest : State → Result} (hi : exec i s = stackPush v s rest)
    (h : (s.busWrite (s.reg SP) v).1 = false) :
    Completes i s fun u =>
      ErrorTaken .invalidMemoryWrite s u ∧ SameMemory s u ∧ Asked (.memWrite (s.reg SP) v) none s u :=
  completes_errorTaken_asked (onlyRequested_busWrite_failed h) (State.busWrite_asked_none h)
    (hi.trans (stackPush_failed v s rest h))

theorem StoredWord.raise {a v : Word} {t : State} (h : StoredWord a v s t) (e : HardwareError) :
    StoredWord a v s (t.raise e) := by
  obtain ⟨hothers, hword, x, hasked⟩ := h
  exact ⟨hothers, hword, x, hasked⟩

/-- A push that overflows has stored its word: nothing earlier is undone (R264; entry 18). -/
theorem completes_of_push_overflow {v : Word} {rest : State → Result} (hi : exec i s = stackPush v s rest)
    (hok : (s.busWrite (s.reg SP) v).1 = true) (hsp : (s.reg SP - 1).toInt < 0) :
    Completes i s fun u => ErrorTaken .stackOverflow s u ∧ StoredWord (s.reg SP) v s u :=
  ⟨(s.pushed v).raise .stackOverflow, hi.trans (stackPush_overflow v s rest hok hsp),
    errorTaken_raise_but_SP _ (s.pushed_sameRegsBut v) (s.pushed_pc v) (s.pushed_sameInternals v),
    (State.pushed_storedWord hok).raise _⟩

/-- A pop that underflows has changed SP alone, which the response sets anew. -/
theorem raises_of_pop_underflow {rest : Word → State → Result} (hi : exec i s = stackPop s rest)
    (hsp : Config.stackTop.toInt < (s.reg SP + 1).toInt) : Raises i s .stackUnderflow := by
  refine raises_of_exec_eq ?_
  rw [hi, stackPop_underflow s rest hsp, State.raise_setReg_SP]
  rfl

theorem completes_of_pop_refused {rest : Word → State → Result} (hi : exec i s = stackPop s rest)
    (hsp : (s.reg SP + 1).toInt ≤ Config.stackTop.toInt) (h : (s.busRead (s.reg SP + 1)).1 = none) :
    Completes i s fun u =>
      ErrorTaken .invalidMemoryRead s u ∧ SameMemory s u ∧ Asked (.memRead (s.reg SP + 1)) none s u := by
  have hread : ((s.setReg SP (s.reg SP + 1)).busRead (s.reg SP + 1)).1 = none := (s.busRead_setReg_fst ..).trans h
  have hasked : Asked (.memRead (s.reg SP + 1)) none s s.popped := State.busRead_asked hread
  have hraise : exec i s = .next (s.popped.raise .invalidMemoryRead) := by
    rw [hi, stackPop_inside s rest hsp, memRead_failed _ _ rest hread]
    rfl
  exact ⟨_, hraise, errorTaken_raise_but_SP _ s.popped_sameRegsBut s.popped_pc s.popped_sameInternals,
    s.popped_sameMemory, hasked⟩

end

/-- Settles O59: `PUSH` and both forms of `CALL` are the one push, `POP` and `RET` the one pop. -/
theorem stackErrors : Obligations.StackErrors := by
  intro s r1 imm pushes pops
  have hpush {i : Instr} {v : Word} {rest : State → Result} (hi : exec i s = stackPush v s rest) : pushes i v :=
    ⟨completes_of_push_refused hi, completes_of_push_overflow hi⟩
  have hpop {i : Instr} {rest : Word → State → Result} (hi : exec i s = stackPop s rest) : pops i :=
    ⟨raises_of_pop_underflow hi, completes_of_pop_refused hi⟩
  exact ⟨hpush (exec_push_eq s r1), hpush (exec_callImm_eq s imm), hpush (exec_callReg_eq s r1),
    hpop (exec_pop_eq s r1), hpop (exec_ret_eq s)⟩

end Sys2Proof.Machine

/-! Extended float operations: FLR, CEIL and ROUND are exact (spec/48_float_extended.md R231 to R233). -/

namespace Sys2Proof.Machine

namespace F32

/-! ### Whole numbers of ones as sizes of floats -/

theorem unit_pos : 0 < unit := by decide

/-- `n` ones are less than one away from `u` units. -/
def WithinOne (u n : Nat) : Prop := n * unit < u + unit ∧ u < n * unit + unit

/-- A whole number of ones that is less than one away from a float's size is the size of a float: from 2^23 ones on the
float is whole itself, and below that 24 bits hold every whole number. -/
theorem Representable.whole {u n : Nat} (hu : Representable u) (hnear : WithinOne u n) :
    Representable (n * unit) := by
  obtain ⟨c, k, rfl, hc, hk⟩ := hu
  obtain ⟨hlow, hhigh⟩ := hnear
  rcases le_or_gt 149 k with hle | hlt
  · have hwhole : c * 2 ^ k = c * 2 ^ (k - 149) * unit := by rw [unit, mul_assoc, ← pow_add, Nat.sub_add_cancel hle]
    rw [hwhole, ← Nat.succ_mul] at hlow hhigh
    have hn : n ≤ c * 2 ^ (k - 149) := Nat.le_of_lt_succ (Nat.lt_of_mul_lt_mul_right hlow)
    have hm : c * 2 ^ (k - 149) ≤ n := Nat.le_of_lt_succ (Nat.lt_of_mul_lt_mul_right hhigh)
    exact ⟨c, k, by rw [hwhole, hn.antisymm hm], hc, hk⟩
  · have hbound : n * unit < (2 ^ 23 + 1) * unit := by
      calc n * unit < c * 2 ^ k + unit := hlow
        _ ≤ 2 ^ 24 * 2 ^ 148 + unit :=
          Nat.add_le_add_right (Nat.mul_le_mul hc.le (Nat.pow_le_pow_right (by decide) (by omega))) _
        _ = (2 ^ 23 + 1) * unit := by decide
    exact ⟨n, 149, rfl, (Nat.lt_of_mul_lt_mul_right hbound).trans (by decide), by decide⟩

theorem towardZero_bounds (u : Nat) : towardZero u * unit ≤ u ∧ u < towardZero u * unit + unit := by
  have hhigh := Nat.lt_mul_div_succ u unit_pos
  rw [Nat.mul_add_one, Nat.mul_comm] at hhigh
  exact ⟨Nat.div_mul_le_self u unit, hhigh⟩

/-- Rounding away from zero is rounding toward zero from one unit less than 1.0 above. -/
theorem awayFromZero_bounds (u : Nat) : u ≤ awayFromZero u * unit ∧ awayFromZero u * unit < u + unit := by
  have hbounds : awayFromZero u * unit ≤ u + (unit - 1) ∧ u + (unit - 1) < awayFromZero u * unit + unit :=
    towardZero_bounds (u + (unit - 1))
  have hpos := unit_pos
  generalize awayFromZero u * unit = x, unit = y at *
  omega

theorem toNearest_bounds (u : Nat) :
    2 * (toNearest u * unit) ≤ 2 * u + unit ∧ 2 * u < 2 * (toNearest u * unit) + unit := by
  have hlow := Nat.div_mul_le_self (2 * u + unit) (2 * unit)
  have hhigh := Nat.lt_mul_div_succ (2 * u + unit) (Nat.mul_pos two_pos unit_pos)
  rw [← toNearest, Nat.mul_left_comm] at hlow
  rw [← toNearest, Nat.mul_add_one, Nat.mul_assoc, Nat.mul_comm unit] at hhigh
  generalize toNearest u * unit = x, unit = y at *
  omega

theorem withinOne_towardZero (u : Nat) : WithinOne u (towardZero u) :=
  ⟨lt_add_of_le_of_pos (towardZero_bounds u).1 unit_pos, (towardZero_bounds u).2⟩

theorem withinOne_awayFromZero (u : Nat) : WithinOne u (awayFromZero u) :=
  ⟨(awayFromZero_bounds u).2, lt_add_of_le_of_pos (awayFromZero_bounds u).1 unit_pos⟩

theorem withinOne_toNearest (u : Nat) : WithinOne u (toNearest u) := by
  obtain ⟨hlow, hhigh⟩ := toNearest_bounds u
  have hpos := unit_pos
  unfold WithinOne
  generalize toNearest u * unit = x, unit = y at *
  omega

theorem withinOne_ite {u m n : Nat} (neg : Bool) (hm : WithinOne u m) (hn : WithinOne u n) :
    WithinOne u (if neg then m else n) := by
  split
  · exact hm
  · exact hn

/-! The three magnitudes as the floor, the ceiling and the nearest whole number of the size. -/

theorem cast_unit : (unit : ℚ) = 2 ^ 149 := by rw [unit, Nat.cast_pow, Nat.cast_ofNat]

theorem cast_unit_pos : (0 : ℚ) < unit := by exact_mod_cast unit_pos

theorem floor_size (u : Nat) : ⌊(u : ℚ) / unit⌋ = towardZero u := by
  obtain ⟨hlow, hhigh⟩ := towardZero_bounds u
  rw [Int.floor_eq_iff, le_div_iff₀ cast_unit_pos, div_lt_iff₀ cast_unit_pos, add_one_mul]
  exact ⟨by exact_mod_cast hlow, by exact_mod_cast hhigh⟩

theorem ceil_size (u : Nat) : ⌈(u : ℚ) / unit⌉ = awayFromZero u := by
  obtain ⟨hlow, hhigh⟩ := awayFromZero_bounds u
  rw [Int.ceil_eq_iff, div_le_iff₀ cast_unit_pos, lt_div_iff₀ cast_unit_pos, sub_one_mul, sub_lt_iff_lt_add]
  exact ⟨by exact_mod_cast hhigh, by exact_mod_cast hlow⟩

theorem floor_size_add_half (u : Nat) : ⌊(u : ℚ) / unit + 1 / 2⌋ = toNearest u := by
  obtain ⟨hlow, hhigh⟩ := toNearest_bounds u
  have hlow' : 2 * ((toNearest u : ℚ) * unit) ≤ 2 * u + unit := by exact_mod_cast hlow
  have hhigh' : 2 * (u : ℚ) < 2 * ((toNearest u : ℚ) * unit) + unit := by exact_mod_cast hhigh
  rw [Int.floor_eq_iff, ← sub_le_iff_le_add, ← lt_sub_iff_add_lt, le_div_iff₀ cast_unit_pos, div_lt_iff₀ cast_unit_pos,
    Int.cast_natCast]
  exact ⟨by linarith, by linarith⟩

/-! With a sign: the magnitude chosen for it is the size of the rounded value. -/

theorem cast_floor_signed (neg : Bool) (u : Nat) :
    ((⌊signFactor neg * ((u : ℚ) / unit)⌋ : Int) : ℚ) =
      signFactor neg * (if neg then awayFromZero u else towardZero u : Nat) := by
  cases neg
  · simp [signFactor, floor_size]
  · simp [signFactor, Int.floor_neg, ceil_size]

theorem cast_ceil_signed (neg : Bool) (u : Nat) :
    ((⌈signFactor neg * ((u : ℚ) / unit)⌉ : Int) : ℚ) =
      signFactor neg * (if neg then towardZero u else awayFromZero u : Nat) := by
  cases neg
  · simp [signFactor, ceil_size]
  · simp [signFactor, Int.ceil_neg, floor_size]

/-- The nearest integer to a number, halfway cases away from zero (R233, D19). -/
def nearestInt (x : ℚ) : Int := if 0 ≤ x then ⌊x + 1 / 2⌋ else ⌈x - 1 / 2⌉

theorem nearestInt_neg (x : ℚ) : nearestInt (-x) = -nearestInt x := by
  rcases lt_trichotomy x 0 with h | rfl | h
  · rw [nearestInt, nearestInt, if_pos (by linarith), if_neg h.not_ge, ← Int.floor_neg]
    ring_nf
  · norm_num [nearestInt]
  · rw [nearestInt, nearestInt, if_neg (by linarith), if_pos h.le, ← Int.ceil_neg]
    ring_nf

theorem cast_nearestInt_signed (neg : Bool) (u : Nat) :
    ((nearestInt (signFactor neg * ((u : ℚ) / unit)) : Int) : ℚ) = signFactor neg * toNearest u := by
  have hsize : nearestInt ((u : ℚ) / unit) = toNearest u := by
    rw [nearestInt, if_pos (by positivity), floor_size_add_half]
  cases neg
  · simp [signFactor, hsize]
  · simp [signFactor, nearestInt_neg, hsize]

/-- What rounding to an integral value leaves of a finite float, where the magnitude chosen is the size of the integer
`f` gives: the result is exact, and the sign is kept, so that a zero result keeps it too (R231, R232). -/
theorem toIntegral_of_isFinite {magnitude : Bool → Nat → Nat} {f : ℚ → Int}
    (hnear : ∀ neg u, WithinOne u (magnitude neg u))
    (hvalue : ∀ neg (u : Nat), (f (signFactor neg * ((u : ℚ) / unit)) : ℚ) = signFactor neg * magnitude neg u)
    {w : Word} (hw : IsFinite w) :
    IsFinite (toIntegral magnitude w) ∧ floatValue (toIntegral magnitude w) = f (floatValue w) ∧
      sign (toIntegral magnitude w) = sign w := by
  have hround : toIntegral magnitude w = round (sign w) (magnitude (sign w) (units w) * unit) 1 := by
    simp [toIntegral, integral, isNaN_isInf_of_isFinite hw]
  obtain ⟨hfinite, hunits⟩ := round_exact (sign w) ((representable_units hw).whole (hnear (sign w) (units w)))
  rw [hround]
  refine ⟨hfinite, ?_, sign_round ..⟩
  rw [floatValue_eq_units, hunits, sign_round, floatValue_eq_units, ← cast_unit, hvalue, Nat.cast_mul,
    mul_div_cancel_right₀ _ cast_unit_pos.ne']

theorem toIntegral_of_not_isFinite {magnitude : Bool → Nat → Nat} {w : Word} (hw : ¬ IsFinite w) :
    toIntegral magnitude w = w := by
  rw [toIntegral, if_pos]
  rw [Bool.or_eq_true, isNaN_iff, isInf_iff]
  by_contra! h
  exact hw (isFinite_of_not h.1 h.2)

section

variable {w : Word}

theorem floor_of_isFinite :
    IsFinite w → IsFinite (floor w) ∧ floatValue (floor w) = (⌊floatValue w⌋ : Int) ∧ sign (floor w) = sign w :=
  toIntegral_of_isFinite (f := Int.floor)
    (fun neg u => withinOne_ite neg (withinOne_awayFromZero u) (withinOne_towardZero u)) cast_floor_signed

theorem ceil_of_isFinite :
    IsFinite w → IsFinite (ceil w) ∧ floatValue (ceil w) = (⌈floatValue w⌉ : Int) ∧ sign (ceil w) = sign w :=
  toIntegral_of_isFinite (f := Int.ceil)
    (fun neg u => withinOne_ite neg (withinOne_towardZero u) (withinOne_awayFromZero u)) cast_ceil_signed

theorem roundNearest_of_isFinite :
    IsFinite w → IsFinite (roundNearest w) ∧ floatValue (roundNearest w) = nearestInt (floatValue w) ∧
      sign (roundNearest w) = sign w :=
  toIntegral_of_isFinite (fun _ => withinOne_toNearest) cast_nearestInt_signed

end

end F32

section

variable (s : State) (r1 : Reg)

theorem exec_flr_eq : exec (.flr r1) s = updateReg F32.floor r1 s := rfl
theorem exec_ceil_eq : exec (.ceil r1) s = updateReg F32.ceil r1 s := rfl
theorem exec_round_eq : exec (.round r1) s = updateReg F32.roundNearest r1 s := rfl

end

/-- Settles O53: a finite float is rounded exactly, and the others are kept. -/
theorem floatToIntegralValue : Obligations.FloatToIntegralValue := by
  intro s r1 x integral
  have hkept {magnitude : Bool → Nat → Nat} (hw : ¬ IsFinite (s.reg r1)) :
      F32.toIntegral magnitude (s.reg r1) = s.reg r1 := F32.toIntegral_of_not_isFinite hw
  exact ⟨⟨_, writes_of_updateReg (exec_flr_eq s r1), F32.floor_of_isFinite, hkept⟩,
    ⟨_, writes_of_updateReg (exec_ceil_eq s r1), F32.ceil_of_isFinite, hkept⟩,
    ⟨_, writes_of_updateReg (exec_round_eq s r1), F32.roundNearest_of_isFinite, hkept⟩⟩

end Sys2Proof.Machine

/-! Extended float operations: what the functions of the mathematical library are held to, and the mathematical errors
(spec/48_float_extended.md R234 to R238, spec/60_exceptions.md R257 to R261). -/

namespace Sys2Proof.Machine

namespace F32

/-! ### The order on finite floats -/

theorem isFinite_iff (w : Word) : IsFinite w ↔ ¬ IsNaN w ∧ ¬ IsInfinity w :=
  ⟨fun h => ⟨not_isNaN_of_isFinite h, not_isInfinity_of_isFinite h⟩, fun h => isFinite_of_not h.1 h.2⟩

theorem extendedValue_of_isFinite {w : Word} (h : IsFinite w) :
    extendedValue w = (((floatValue w : ℚ) : WithTop ℚ) : WithBot (WithTop ℚ)) :=
  if_neg (not_isInfinity_of_isFinite h)

theorem extendedValue_of_isInfinity {w : Word} (h : IsInfinity w) :
    extendedValue w = ⊥ ∨ extendedValue w = ((⊤ : WithTop ℚ) : WithBot (WithTop ℚ)) := by
  rw [extendedValue, if_pos h]
  exact ite_eq_or_eq ..

theorem floatValue_of_isZero {w : Word} (h : w = 0x00000000 ∨ w = 0x80000000) : floatValue w = 0 := by
  rw [floatValue_eq_units, (units_eq_zero_iff w).2 h, Nat.cast_zero, zero_div, mul_zero]

theorem extendedValue_of_isZero {w : Word} (h : w = 0x00000000 ∨ w = 0x80000000) : extendedValue w = 0 := by
  have hfinite : IsFinite w := by rcases h with rfl | rfl <;> decide
  rw [extendedValue_of_isFinite hfinite, floatValue_of_isZero h]
  rfl

/-- The closed interval of the floats from `lo` to `hi`. -/
def between (lo hi w : Word) : Bool := le lo w && le w hi

/-- A float between two finite ones is finite. -/
theorem between_iff {lo hi : Word} (hlo : IsFinite lo) (hhi : IsFinite hi) (w : Word) :
    between lo hi w = true ↔ IsFinite w ∧ floatValue lo ≤ floatValue w ∧ floatValue w ≤ floatValue hi := by
  rw [between, Bool.and_eq_true, le_iff, le_iff, extendedValue_of_isFinite hlo, extendedValue_of_isFinite hhi]
  have hnlo := not_isNaN_of_isFinite hlo
  have hnhi := not_isNaN_of_isFinite hhi
  by_cases hw : IsFinite w
  · have hnw := not_isNaN_of_isFinite hw
    simp only [extendedValue_of_isFinite hw, WithBot.coe_le_coe, WithTop.coe_le_coe, hnlo, hnhi, hnw, true_and,
      not_false_eq_true]
    exact (and_iff_right hw).symm
  · refine iff_of_false ?_ (fun h => hw h.1)
    rintro ⟨⟨-, hnw, hle⟩, -, -, hge⟩
    have hinf : IsInfinity w := by
      by_contra hinf
      exact hw (isFinite_of_not hnw hinf)
    rcases extendedValue_of_isInfinity hinf with h | h
    · rw [h] at hle
      exact absurd hle (WithBot.bot_lt_coe _).not_ge
    · rw [h] at hge
      exact absurd hge (WithBot.coe_lt_coe.2 (WithTop.coe_lt_top _)).not_ge

/-! ### The error conditions (R257 to R261) -/

theorem floatValue_one : floatValue one = 1 := by
  rw [floatValue_eq]
  have h : value one = 2 ^ 149 := by decide
  rw [h]
  norm_num

/-- The floats with an arc cosine are those from -1.0 to 1.0 (R235, R258). -/
theorem acosError_eq_false_iff (w : Word) : acosError w = false ↔ IsFinite w ∧ |floatValue w| ≤ 1 := by
  rw [acosError, Bool.not_eq_false', ← between, between_iff (by decide) (by decide), floatValue_neg, floatValue_one,
    abs_le]

theorem atan2Error_iff (y x : Word) :
    atan2Error y x = true ↔ (y = 0x00000000 ∨ y = 0x80000000) ∧ (x = 0x00000000 ∨ x = 0x80000000) := by
  rw [atan2Error, Bool.and_eq_true, isZero_iff, isZero_iff]

theorem lt_zero_iff (w : Word) : lt w 0 = true ↔ ¬ IsNaN w ∧ extendedValue w < 0 := by
  have hzero : ¬ IsNaN 0 := by decide
  rw [lt_iff, extendedValue_of_isZero (w := 0) (.inl rfl)]
  tauto

theorem zero_lt_iff (w : Word) : lt 0 w = true ↔ ¬ IsNaN w ∧ 0 < extendedValue w := by
  have hzero : ¬ IsNaN 0 := by decide
  rw [lt_iff, extendedValue_of_isZero (w := 0) (.inl rfl)]
  tauto

theorem logError_iff (w : Word) : logError w = true ↔ ¬ IsNaN w ∧ extendedValue w ≤ 0 := by
  have hzero : ¬ IsNaN 0 := by decide
  rw [logError, le_iff, extendedValue_of_isZero (w := 0) (.inl rfl)]
  tauto

theorem floor_of_isInfinity {e : Word} (h : IsInfinity e) : floor e = e :=
  toIntegral_of_not_isFinite fun hfinite => hfinite h.1

/-- A finite float is its floor exactly where it is an integer. -/
theorem floatValue_eq_floor_iff {e : Word} (h : IsFinite e) :
    floatValue e = floatValue (floor e) ↔ ∃ n : Int, floatValue e = n := by
  obtain ⟨-, hfloor, -⟩ := floor_of_isFinite h
  rw [hfloor]
  refine ⟨fun heq => ⟨_, heq⟩, ?_⟩
  rintro ⟨n, hn⟩
  rw [hn, Int.floor_intCast]

/-- The exponents that differ from their floor are the NaNs and the finite floats that are no integers (R261, D20). -/
theorem ne_floor_iff (e : Word) :
    ne e (floor e) = true ↔ IsNaN e ∨ (IsFinite e ∧ ∀ n : Int, floatValue e ≠ n) := by
  rw [ne_iff]
  by_cases hnan : IsNaN e
  · exact iff_of_true (fun h => h.1 hnan) (.inl hnan)
  by_cases hinf : IsInfinity e
  · rw [floor_of_isInfinity hinf]
    exact iff_of_false (fun h => h ⟨hnan, hnan, rfl⟩) (fun h => h.elim hnan fun h => h.1 hinf.1)
  · have hfinite := isFinite_of_not hnan hinf
    obtain ⟨hfloor, -⟩ := floor_of_isFinite hfinite
    have hnfloor := not_isNaN_of_isFinite hfloor
    have hvalue : extendedValue e = extendedValue (floor e) ↔ ∃ n : Int, floatValue e = n := by
      rw [extendedValue_of_isFinite hfinite, extendedValue_of_isFinite hfloor, WithBot.coe_inj, WithTop.coe_inj,
        floatValue_eq_floor_iff hfinite]
    rw [hvalue, and_iff_right hnan, and_iff_right hnfloor, or_iff_right hnan, and_iff_right hfinite, not_exists]

theorem powError_iff (b e : Word) :
    powError b e = true ↔ (¬ IsNaN b ∧ extendedValue b < 0) ∧
      (IsNaN e ∨ (IsFinite e ∧ ∀ n : Int, floatValue e ≠ n)) := by
  rw [powError, Bool.and_eq_true, lt_zero_iff, ne_floor_iff]

end F32

/-! ### The mathematical errors -/

section

variable (s : State) (r1 r2 : Reg) (imm : Word)

theorem exec_fdivImm_eq :
    exec (.fdivImm r1 imm) s = updateUnless floatDivisorZero .divisionError F32.div r1 imm s := rfl
theorem exec_fdivReg_eq :
    exec (.fdivReg r1 r2) s = updateUnless floatDivisorZero .divisionError F32.div r1 (s.reg r2) s := rfl
theorem exec_fmodImm_eq :
    exec (.fmodImm r1 imm) s = updateUnless floatDivisorZero .divisionError F32.fmod r1 imm s := rfl
theorem exec_fmodReg_eq :
    exec (.fmodReg r1 r2) s = updateUnless floatDivisorZero .divisionError F32.fmod r1 (s.reg r2) s := rfl
theorem exec_sin_eq : exec (.sin r1) s = updateReg F32.sin r1 s := rfl
theorem exec_acos_eq : exec (.acos r1) s = updateRegUnless F32.acosError .arcCosineError F32.acos r1 s := rfl
theorem exec_atan2_eq :
    exec (.atan2 r1 r2) s = updateUnless F32.atan2Error .arcTangent2Error F32.atan2 r1 (s.reg r2) s := rfl
theorem exec_log_eq : exec (.log r1) s = updateRegUnless F32.logError .logarithmError F32.log r1 s := rfl
theorem exec_pow_eq : exec (.pow r1 r2) s = updateUnless F32.powError .powerError F32.pow r1 (s.reg r2) s := rfl

end

section

variable {i : Instr} {s : State} {r1 : Reg} {e : HardwareError}

/-- An instruction with a mathematical error takes it where the error's condition holds. -/
theorem raises_of_updateUnless {b : Word} {bad : Word → Word → Bool} {f : Word → Word → Word}
    (hi : exec i s = updateUnless bad e f r1 b s) (hbad : bad (s.reg r1) b = true) : Raises i s e :=
  raises_of_exec_eq (hi.trans (if_pos hbad))

theorem raises_of_updateRegUnless {bad : Word → Bool} {f : Word → Word}
    (hi : exec i s = updateRegUnless bad e f r1 s) (hbad : bad (s.reg r1) = true) : Raises i s e :=
  raises_of_exec_eq (hi.trans (if_pos hbad))

theorem writes_of_updateRegUnless {bad : Word → Bool} {f : Word → Word}
    (hi : exec i s = updateRegUnless bad e f r1 s) (hok : bad (s.reg r1) = false) : Writes i s r1 (f (s.reg r1)) :=
  writes_of_updateReg (hi.trans (if_neg (Bool.eq_false_iff.1 hok)))

end

/-- Settles O57: each condition is the one its instruction tests before it writes. -/
theorem mathematicalErrors : Obligations.MathematicalErrors := by
  intro s r1 r2 b
  have hzero {a c : Word} (hc : c = 0) : divisorZero a c = true := beq_iff_eq.2 hc
  have hfzero {a c : Word} (hc : c = 0x00000000 ∨ c = 0x80000000) : floatDivisorZero a c = true :=
    (F32.isZero_iff c).2 hc
  refine ⟨?idivImm, fun h => ?idivReg, fun h => ?fdivImm, fun h => ?fdivReg, fun h => ?acos, fun h => ?atan2,
    fun hnan h => ?log, fun hnan hneg h => ?pow⟩
  case idivImm =>
    exact ⟨raises_of_updateUnless (exec_idivImm_eq ..) (hzero rfl),
      raises_of_updateUnless (exec_imodImm_eq ..) (hzero rfl)⟩
  case idivReg =>
    exact ⟨raises_of_updateUnless (exec_idivReg_eq ..) (hzero h), raises_of_updateUnless (exec_imodReg_eq ..) (hzero h)⟩
  case fdivImm =>
    exact ⟨raises_of_updateUnless (exec_fdivImm_eq ..) (hfzero h),
      raises_of_updateUnless (exec_fmodImm_eq ..) (hfzero h)⟩
  case fdivReg =>
    exact ⟨raises_of_updateUnless (exec_fdivReg_eq ..) (hfzero h),
      raises_of_updateUnless (exec_fmodReg_eq ..) (hfzero h)⟩
  case acos =>
    refine raises_of_updateRegUnless (exec_acos_eq ..) (Bool.eq_true_of_not_eq_false fun hok => ?_)
    obtain ⟨hfinite, hle⟩ := (F32.acosError_eq_false_iff _).1 hok
    rcases h with hnan | hinf | hlt
    · exact hfinite hnan.1
    · exact hfinite hinf.1
    · exact hlt.not_ge hle
  case atan2 => exact raises_of_updateUnless (exec_atan2_eq ..) ((F32.atan2Error_iff _ _).2 h)
  case log => exact raises_of_updateRegUnless (exec_log_eq ..) ((F32.logError_iff _).2 ⟨hnan, h⟩)
  case pow => exact raises_of_updateUnless (exec_pow_eq ..) ((F32.powError_iff _ _).2 ⟨⟨hnan, hneg⟩, h⟩)

/-! ### SIN, LOG and POW -/

namespace F32

theorem isNaN_sin {w : Word} (h : ¬ IsFinite w) : IsNaN (sin w) := by
  rw [isFinite_iff, ← not_or, not_not, ← isNaN_iff, ← isInf_iff, ← Bool.or_eq_true] at h
  rw [sin, if_pos h]
  exact isNaN_nanOf _

theorem isNaN_log {w : Word} (h : IsNaN w) : IsNaN (log w) := by
  rw [log, if_pos ((isNaN_iff w).2 h)]
  exact isNaN_nanOf _

/-- The logarithm of positive infinity. -/
theorem log_inf : log 0x7F800000 = 0x7F800000 := by
  rw [log, if_neg (by decide), if_pos (by decide)]
  decide

theorem pow_of_isZero_right {b e : Word} (h : e = 0x00000000 ∨ e = 0x80000000) : pow b e = one := by
  rw [pow, if_pos ((isZero_iff e).2 h)]

theorem isInfinity_pow {b e : Word} (hb : b = 0x00000000 ∨ b = 0x80000000) (hnan : ¬ IsNaN e)
    (he : extendedValue e < 0) : IsInfinity (pow b e) := by
  have hne : ¬ isZero e = true := fun h => he.ne (extendedValue_of_isZero ((isZero_iff e).1 h))
  rw [pow, if_neg hne, if_pos (by rw [(isZero_iff b).2 hb, (lt_zero_iff e).2 ⟨hnan, he⟩]; rfl)]
  exact isInfinity_inf _

end F32

/-- Settles O54: the two error conditions fail where the statement says, and each named value is a rule of its
function. -/
theorem sinLogPowComplete : Obligations.SinLogPowComplete := by
  intro s r1 r2
  refine ⟨⟨_, writes_of_updateReg (exec_sin_eq s r1), F32.isNaN_sin⟩, fun h => ?log, fun h => ?pow⟩
  case log =>
    have hok : F32.logError (s.reg r1) = false := by
      rw [Bool.eq_false_iff, ne_eq, F32.logError_iff]
      rintro ⟨hnan, hle⟩
      exact h.elim hnan hle.not_gt
    refine ⟨_, writes_of_updateRegUnless (exec_log_eq s r1) hok, F32.isNaN_log, fun hinf => ?_⟩
    rw [hinf, F32.log_inf]
  case pow =>
    have hok : F32.powError (s.reg r1) (s.reg r2) = false := by
      rw [Bool.eq_false_iff, ne_eq, F32.powError_iff]
      rintro ⟨⟨hnan, hneg⟩, hexp⟩
      rcases h with hnan' | hnonneg | hinf | ⟨hfinite, n, hn⟩
      · exact hnan hnan'
      · exact hneg.not_ge hnonneg
      · exact hexp.elim (F32.not_isNaN_of_isInfinity hinf) fun h => h.1 hinf.1
      · exact hexp.elim (F32.not_isNaN_of_isFinite hfinite) fun h => h.2 n hn
    exact ⟨_, writes_of_updateUnless (exec_pow_eq s r1 r2) hok, F32.pow_of_isZero_right, F32.isInfinity_pow⟩

end Sys2Proof.Machine

/-! Extended float operations: the ranges of ACOS and ATAN2 (spec/48_float_extended.md R235, R236). -/

namespace Sys2Proof.Machine

namespace F32

/-! ### The sign of a value -/

theorem sign_eq_false_of_value_pos {w : Word} (h : 0 < value w) : sign w = false := by
  rw [Bool.eq_false_iff]
  intro hs
  rw [value, if_pos hs] at h
  omega

theorem sign_eq_true_of_value_neg {w : Word} (h : value w < 0) : sign w = true := by
  by_contra hs
  rw [value, if_neg hs] at h
  omega

theorem value_zero : value 0 = 0 := by decide

theorem zero_lt_extendedValue_iff {w : Word} (h : ¬ IsNaN w) : 0 < extendedValue w ↔ 0 < value w := by
  have hlt := value_lt_iff 0 w (by decide) h
  rw [value_zero, extendedValue_of_isZero (.inl rfl)] at hlt
  exact hlt.symm

theorem extendedValue_lt_zero_iff {w : Word} (h : ¬ IsNaN w) : extendedValue w < 0 ↔ value w < 0 := by
  have hlt := value_lt_iff w 0 h (by decide)
  rw [value_zero, extendedValue_of_isZero (.inl rfl)] at hlt
  exact hlt.symm

theorem value_of_isZero {w : Word} (h : isZero w = true) : value w = 0 := by
  rcases (isZero_iff w).1 h with rfl | rfl <;> decide

theorem value_eq_of_eq {a b : Word} (h : eq a b = true) : value a = value b := by
  simp only [eq, Bool.and_eq_true, beq_iff_eq] at h
  exact h.2

theorem le_trans {a b c : Word} (hab : le a b = true) (hbc : le b c = true) : le a c = true := by
  rw [le_iff] at *
  exact ⟨hab.1, hbc.2.1, hab.2.2.trans hbc.2.2⟩

/-! ### The size and the sign of a float -/

theorem expBits_abs (w : Word) : expBits (abs w) = expBits w := by
  rw [expBits, expBits, abs, BitVec.extractLsb'_and]
  exact congrArg BitVec.toNat (BitVec.and_allOnes)

theorem fracBits_abs (w : Word) : fracBits (abs w) = fracBits w := by
  rw [fracBits, fracBits, abs, BitVec.extractLsb'_and]
  exact congrArg BitVec.toNat (BitVec.and_allOnes)

theorem floatValue_abs (w : Word) : floatValue (abs w) = |floatValue w| := by
  have hunits : units (abs w) = units w := by
    rw [units, units, exponent_eq, exponent_eq, fraction_eq, fraction_eq, expBits_abs, fracBits_abs]
  rw [abs_floatValue, floatValue_eq_units, sign_abs, hunits, signFactor, if_neg Bool.false_ne_true, one_mul]

theorem abs_of_sign_eq_false {w : Word} (h : sign w = false) : abs w = w :=
  eq_of_fields (by rw [sign_abs, h]) (expBits_abs w) (fracBits_abs w)

theorem floatValue_nonneg {w : Word} (h : sign w = false) : 0 ≤ floatValue w := by
  rw [← abs_of_sign_eq_false h, floatValue_abs]
  exact abs_nonneg _

/-- A size with a sign put before it. -/
theorem sign_abs_ite_neg {w : Word} (negative : Bool) (h : sign w = false) :
    sign (if negative then neg w else w) = negative ∧ abs (if negative then neg w else w) = w := by
  cases negative
  · exact ⟨h, abs_of_sign_eq_false h⟩
  · refine ⟨by rw [if_pos rfl, sign_neg, h]; rfl, ?_⟩
    rw [if_pos rfl]
    refine eq_of_fields (by rw [sign_abs, h]) ?_ ?_
    · rw [expBits_abs, expBits_neg]
    · rw [fracBits_abs, fracBits_neg]

/-! ### The size of the angle of a vector (R236) -/

theorem near_mem (angle free : Word) : near angle free ∈ [angle - 1, angle, angle + 1] := by
  simpa using near_cases angle free

/-- The angle is the free word or one of the named ones, none of which is negative. -/
theorem sign_angleSize {y x free : Word} (h : sign free = false) : sign (angleSize y x free) = false := by
  have hnear {angle : Word} (ha : sign angle = false) : sign (near angle free) = false := by
    unfold near
    split <;> assumption
  have hwithin {lo hi : Word} (hl : sign lo = false) : sign (within lo hi free) = false := by
    unfold within
    split <;> assumption
  unfold angleSize
  split
  · exact hnear (by decide)
  split
  · split
    · exact h
    · decide
  split
  · exact hnear (by split <;> decide)
  split
  · exact hwithin (by decide)
  · exact hwithin (by decide)

theorem near_between {lo hi angle : Word} (hbelow : between lo hi (angle - 1) = true)
    (hat : between lo hi angle = true) (habove : between lo hi (angle + 1) = true) (free : Word) :
    between lo hi (near angle free) = true := by
  rcases near_cases angle free with h | h | h <;> rw [h] <;> assumption

/-- In the half plane Vx > 0, the origin of angles left out, the size is at most pi/2. -/
theorem angleSize_of_value_pos {y x : Word} (hx : 0 < value x) (hy : ¬ isZero y = true) (free : Word) :
    between 0 halfPi (angleSize y x free) = true := by
  obtain ⟨hzero, -⟩ | ⟨hzero, -⟩ | ⟨heq, hsize⟩ | ⟨hsign, -⟩ | ⟨-, hlow, hhigh⟩ := angleSize_cases y x free
  · exact absurd (value_of_isZero hzero) hx.ne'
  · exact absurd hzero hy
  · rw [hsize, sign_eq_false_of_value_pos (value_eq_of_eq heq ▸ hx)]
    exact near_between (by decide) (by decide) (by decide) free
  · exact absurd (sign_eq_false_of_value_pos hx) (by simp [hsign])
  · rw [between, hlow, hhigh]
    rfl

/-- In the half plane Vx < 0 the size is at least pi/2. -/
theorem angleSize_of_value_neg {y x : Word} (hx : value x < 0) (free : Word) :
    between halfPi pi (angleSize y x free) = true := by
  obtain ⟨hzero, -⟩ | ⟨-, hsize⟩ | ⟨heq, hsize⟩ | ⟨-, hlow, hhigh⟩ | ⟨hsign, -⟩ := angleSize_cases y x free
  · exact absurd (value_of_isZero hzero) hx.ne
  · rcases hsize with hsize | hsize <;> rw [hsize] <;> decide
  · rw [hsize, sign_eq_true_of_value_neg (value_eq_of_eq heq ▸ hx)]
    exact near_between (by decide) (by decide) (by decide) free
  · rw [between, hlow, hhigh]
    rfl
  · exact absurd (sign_eq_true_of_value_neg hx) (by simp [hsign])

/-- No size exceeds pi. -/
theorem angleSize_le_pi (y x free : Word) :
    between 0 pi (angleSize y x free) = true := by
  obtain ⟨-, hsize⟩ | ⟨-, hsize⟩ | ⟨-, hsize⟩ | ⟨-, hlow, hhigh⟩ | ⟨-, hlow, hhigh⟩ := angleSize_cases y x free
  · rw [hsize]
    exact near_between (by decide) (by decide) (by decide) free
  · rcases hsize with hsize | hsize <;> rw [hsize] <;> decide
  · rw [hsize]
    cases sign y
    · exact near_between (by decide) (by decide) (by decide) free
    · exact near_between (by decide) (by decide) (by decide) free
  · rw [between, hhigh, le_trans (by decide) hlow]
    rfl
  · rw [between, hlow, le_trans hhigh (by decide)]
    rfl

theorem angleSize_on_y_axis {x : Word} (h : isZero x = true) (y free : Word) :
    angleSize y x free ∈ [0x3FC90FDA, 0x3FC90FDB, 0x3FC90FDC] := by
  rw [angleSize, if_pos h]
  exact near_mem halfPi free

theorem angleSize_on_x_axis {y x : Word} (hx : ¬ isZero x = true) (hy : isZero y = true) (free : Word) :
    angleSize y x free ∈ [0x40490FDA, 0x40490FDB] := by
  rw [angleSize, if_neg hx, if_pos hy]
  split
  case isTrue h => exact h ▸ List.mem_cons_self
  case isFalse => exact List.mem_cons_of_mem _ List.mem_cons_self

theorem angleSize_on_diagonal {y x : Word} (heq : y = x) (hnan : ¬ IsNaN x) (hx : value x ≠ 0) (free : Word) :
    angleSize y x free = near (if sign x then threeQuarterPi else quarterPi) free := by
  have hzero : ¬ isZero x = true := fun h => hx (value_of_isZero h)
  rw [heq, angleSize, if_neg hzero, if_neg hzero, if_pos ((eq_iff x x).2 ⟨hnan, hnan, rfl⟩)]

theorem angleSize_on_diagonal_right {y x : Word} (heq : y = x) (hnan : ¬ IsNaN x) (hx : 0 < value x) (free : Word) :
    angleSize y x free ∈ [0x3F490FDA, 0x3F490FDB, 0x3F490FDC] := by
  rw [angleSize_on_diagonal heq hnan hx.ne', sign_eq_false_of_value_pos hx]
  exact near_mem quarterPi free

theorem angleSize_on_diagonal_left {y x : Word} (heq : y = x) (hnan : ¬ IsNaN x) (hx : value x < 0) (free : Word) :
    angleSize y x free ∈ [0x4016CBE3, 0x4016CBE4, 0x4016CBE5] := by
  rw [angleSize_on_diagonal heq hnan hx.ne, sign_eq_true_of_value_neg hx]
  exact near_mem threeQuarterPi free

/-! ### The two functions -/

/-- ACOS stays in its range whatever the free word is (R235). -/
theorem between_acos (a : Word) : between 0 pi (acos a) = true := by
  obtain ⟨hlow, hhigh⟩ := within_between (lo := 0) (hi := pi) (by decide) (by decide) (Config.acos a)
  rw [between, acos, hlow, hhigh]
  rfl

section

variable {y x : Word} (hy : ¬ IsNaN y) (hx : ¬ IsNaN x)
include hy hx

theorem atan2_of_not_isNaN :
    atan2 y x = if isZero y && lt 0 x then zero (sign y && sign (Config.atan2 y x))
      else if sign y then neg (angleSize y x (abs (Config.atan2 y x))) else angleSize y x (abs (Config.atan2 y x)) := by
  rw [atan2, if_neg]
  rw [Bool.or_eq_true, isNaN_iff, isNaN_iff]
  exact not_or.2 ⟨hy, hx⟩

omit hy in
theorem origin_iff : (isZero y && lt 0 x) = true ↔ isZero y = true ∧ 0 < extendedValue x := by
  rw [Bool.and_eq_true, zero_lt_iff, and_iff_right hx]

/-- At the origin of angles the result is a zero of some sign. -/
theorem atan2_at_origin (h : isZero y = true ∧ 0 < extendedValue x) :
    IsFinite (atan2 y x) ∧ floatValue (atan2 y x) = 0 := by
  rw [atan2_of_not_isNaN hy hx, if_pos ((origin_iff hx).2 h)]
  generalize (sign y && sign (Config.atan2 y x)) = neg
  refine ⟨by cases neg <;> decide, floatValue_of_isZero ?_⟩
  rw [zero_eq]
  exact (ite_eq_or_eq ..).symm

/-- Away from the origin of angles the result is the size with the sign of Vy. -/
theorem atan2_sign_abs (h : ¬ (isZero y = true ∧ 0 < extendedValue x)) :
    sign (atan2 y x) = sign y ∧ abs (atan2 y x) = angleSize y x (abs (Config.atan2 y x)) := by
  rw [atan2_of_not_isNaN hy hx, if_neg ((origin_iff hx).not.2 h)]
  exact sign_abs_ite_neg (sign y) (sign_angleSize (sign_abs _))

/-- Away from the origin of angles the result's size as a number lies where the size as a float does. -/
theorem abs_atan2_between {lo hi : Word} (hlo : IsFinite lo) (hhi : IsFinite hi)
    (h : ¬ (isZero y = true ∧ 0 < extendedValue x))
    (hsize : ∀ free, between lo hi (angleSize y x free) = true) :
    IsFinite (atan2 y x) ∧ floatValue lo ≤ |floatValue (atan2 y x)| ∧ |floatValue (atan2 y x)| ≤ floatValue hi := by
  obtain ⟨-, habs⟩ := atan2_sign_abs hy hx h
  have hbetween := (between_iff hlo hhi _).1 (hsize (abs (Config.atan2 y x)))
  rwa [← habs, IsFinite, expBits_abs, floatValue_abs] at hbetween

end

end F32

/-- Settles O55: ACOS is kept in its range; ATAN2 is a zero at the origin of angles, and elsewhere its size is bounded
by the half plane and named on the axes and the diagonal. -/
theorem acosAtan2Ranges : Obligations.AcosAtan2Ranges := by
  intro s r1 r2 y x isZero
  refine ⟨fun hfinite hle => ?acos, fun h => ?atan2⟩
  case acos =>
    have hok := (F32.acosError_eq_false_iff y).2 ⟨hfinite, hle⟩
    obtain ⟨hv, hlow, hhigh⟩ := (F32.between_iff (by decide) (by decide) _).1 (F32.between_acos y)
    rw [F32.floatValue_of_isZero (.inl rfl)] at hlow
    exact ⟨_, writes_of_updateRegUnless (exec_acos_eq s r1) hok, hv, hlow, hhigh⟩
  case atan2 =>
    have hok : F32.atan2Error y x = false := Bool.eq_false_iff.2 (h ∘ (F32.atan2Error_iff y x).1)
    refine ⟨F32.atan2 y x, writes_of_updateUnless (exec_atan2_eq s r1 r2) hok, fun hny hnx => ?_⟩
    intro size
    have hzero {w : Word} : isZero w ↔ F32.isZero w = true := (F32.isZero_iff w).symm
    have hext {w : Word} (hw : isZero w) : extendedValue w = 0 := F32.extendedValue_of_isZero hw
    by_cases horigin : isZero y ∧ 0 < extendedValue x
    case pos =>
      obtain ⟨hy, hpos⟩ := horigin
      obtain ⟨hfinite, hv⟩ := F32.atan2_at_origin hny hnx ⟨hzero.1 hy, hpos⟩
      have hx : ¬ isZero x := fun hx => hpos.ne' (hext hx)
      rw [hv, abs_zero]
      exact ⟨hfinite, F32.floatValue_nonneg (by decide), fun _ _ => rfl, fun hn => absurd ⟨hy, hpos⟩ hn,
        fun _ => F32.floatValue_nonneg (by decide), fun hneg => absurd hneg hpos.not_gt, fun hx' => absurd hx' hx,
        fun _ hneg => absurd hneg hpos.not_gt, fun heq => absurd (heq ▸ hy) hx, fun heq => absurd (heq ▸ hy) hx⟩
    case neg =>
      have horigin' : ¬ (F32.isZero y = true ∧ 0 < extendedValue x) := by rwa [← hzero]
      have hpos := F32.zero_lt_extendedValue_iff hnx
      have hneg := F32.extendedValue_lt_zero_iff hnx
      obtain ⟨hsign, hsize : size = _⟩ := F32.atan2_sign_abs hny hnx horigin'
      obtain ⟨hfinite, -, hpi⟩ := F32.abs_atan2_between hny hnx (by decide) (by decide) horigin'
        (F32.angleSize_le_pi y x)
      rw [hsize]
      refine ⟨hfinite, hpi, fun hy hx => absurd ⟨hy, hx⟩ horigin, fun _ => hsign, fun hx => ?right, fun hx => ?left,
        fun hx => F32.angleSize_on_y_axis (hzero.1 hx) y _, fun hy hx => ?xAxis,
        fun heq hx => F32.angleSize_on_diagonal_right heq hnx (hpos.1 hx) _,
        fun heq hx => F32.angleSize_on_diagonal_left heq hnx (hneg.1 hx) _⟩
      case right =>
        have hbetween := F32.angleSize_of_value_pos (hpos.1 hx) fun hy => horigin' ⟨hy, hx⟩
        exact (F32.abs_atan2_between hny hnx (by decide) (by decide) horigin' hbetween).2.2
      case left =>
        have hbetween := F32.angleSize_of_value_neg (y := y) (hneg.1 hx)
        exact (F32.abs_atan2_between hny hnx (by decide) (by decide) horigin' hbetween).2.1
      case xAxis => exact F32.angleSize_on_x_axis (fun hx' => hx.ne (hext (hzero.2 hx'))) (hzero.1 hy) _

end Sys2Proof.Machine
